-- ==== Sys2Proof/Word.lean ====
section
/-! DEFINITION. The two widths of the block: every value is an unsigned integer of 8 or 16 bits or a flag
(`00_scope.md` R12). -/

namespace Sys2Proof

/-- `u16`: a digit word, an encoder result, a raw mask (`00_scope.md` R10, WORD_BITS). -/
abbrev Word := BitVec 16

/-- `u8`: a character code, a two-value operand, a command byte, one shift-out (`00_scope.md` R10). -/
abbrev Byte := BitVec 8

end Sys2Proof
end

