-- ==== Sys2Proof/Config.lean ====
section
/-! DEFINITION. What is fixed for one instance, and the named parameters of `92_eei_decisions.md` ("Parameters left
open, in one place") at the defaults the rules use. Each parameter is an argument of the operation that depends on
it; the meanings pass the value named here. -/

namespace Sys2Proof

/-- The three output lines (`10_state.md` R27). -/
inductive Line where
  | data
  | clock
  | latch
  deriving DecidableEq, Repr

/-- A line identifier: opaque, never compared or computed with by an operation (`10_state.md` R25). -/
abbrev PinId := Nat

/-- The pin configuration of an instance (`10_state.md` R25). -/
structure PinConfig where
  data : PinId
  latch : PinId
  clock : PinId
  deriving DecidableEq, Repr

/-- What a character code 0x00 met by the text walk does: parameter TEXT_NUL_POLICY (`43_formatter_text.md` R152,
`92_eei_decisions.md` D9). -/
inductive TextNulPolicy where
  /-- The operation is refused and changes nothing. -/
  | refuse
  /-- The code ends the input. -/
  | terminate
  /-- The code is the integer key 0. -/
  | ordinary
  deriving DecidableEq, Repr

namespace Config

/-- The identifiers of the instance that `State.reset` is the construction of. DESIGN CHOICE (log 3), unsafe: the spec
gives "the values supplied"; nothing but distinctness may be used of these three. -/
def pins : PinConfig := { data := 0, latch := 1, clock := 2 }

/-- TEXT_NUL_POLICY, the spec's default (`92_eei_decisions.md` D9; DESIGN CHOICE of the spec, log 8, safe). -/
def textNulPolicy : TextNulPolicy := .refuse

/-- CONFIGURE_ORDER, the spec's default (`92_eei_decisions.md` D18; DESIGN CHOICE of the spec, log 10, unsafe). -/
def configureOrder : List Line := [.data, .latch, .clock]

/-- CLOCK_PULSE, the levels written to CLOCK for one bit, the spec's default (`92_eei_decisions.md` D7;
PRESUMED by the spec, log 9, unsafe). CLOCK idles at the last of them, low. -/
def clockPulse : List Bool := [true, false]

/-- TEXT_MAX, the longest text a command word can carry (`00_scope.md` R10). -/
def textMax : Nat := 255

/-- CHAIN_BITS, the length of the informative receiver (`92_eei_decisions.md` D20; PRESUMED by the spec, log 12). -/
def chainBits : Nat := 16

end Config

end Sys2Proof
end

