-- ==== Sys2Proof/Syntax.lean ====
section
/-! DEFINITION. The operations of the block in their normative, abstract form (`30_encoding.md` R70), one constructor a
row of `opcode_table.json`, and the call forms of the source (R77), which are sugar over them. -/

namespace Sys2Proof

/-- The host-issuable operations (`00_scope.md` R7), with the operand kinds of `30_encoding.md` R68. -/
inductive Instr where
  /-- ENCODE `c` (`40_segment_encoder.md` R90). -/
  | encode (c : Byte)
  /-- CLEAR (`41_controller_basic.md` R110). -/
  | clear
  /-- SETUP (`41_controller_basic.md` R112). -/
  | setup
  /-- DISPLAY_RAW (`41_controller_basic.md` R114). -/
  | displayRaw (mask1 mask2 mask3 mask4 : Word) (colon : Bool)
  /-- DISPLAY_DEC (`42_formatter_numeric.md` R131). -/
  | displayDec (hi lo : Byte)
  /-- DISPLAY_HEX (`42_formatter_numeric.md` R134). -/
  | displayHex (hi lo : Byte)
  /-- COLON (`41_controller_basic.md` R116). -/
  | colon (enabled : Bool)
  /-- DISPLAY_TEXT: a finite sequence of character codes, of any length (`43_formatter_text.md` R145). -/
  | displayText (text : List Byte)
  /-- REFRESH (`44_transceiver.md` R160). -/
  | refresh
  deriving DecidableEq, Repr

/-- The format operand of the two-value display: a closed type of two values (`42_formatter_numeric.md` R130,
`92_eei_decisions.md` D10). -/
inductive Format where
  | decimal
  | hex
  deriving DecidableEq, Repr

/-- The call forms of the source, with the operands that may be omitted (`30_encoding.md` R77). -/
inductive Call where
  | encode (c : Byte)
  | clear
  | setup
  /-- `display(mask1, mask2, mask3, mask4, colon=false)` -/
  | displayMasks (mask1 mask2 mask3 mask4 : Word) (colon : Option Bool)
  /-- `display(hi, lo, format)`, the pseudo-operation DISPLAY_PAIR (R78) -/
  | displayPair (hi lo : Byte) (format : Format)
  /-- `display(text)` -/
  | displayText (text : List Byte)
  /-- `colon(enabled=true)` -/
  | colon (enabled : Option Bool)
  | refresh
  deriving DecidableEq, Repr

end Sys2Proof
end

