-- ==== Sys2Proof/WellFormed.lean ====
section
/-! DEFINITION. Which operations have a command word. Every operand's range is its type; the one check is TEXT_MAX
(`30_encoding.md` R72: "A text longer than 255 codes has no command word"). An ill-formed operation is still an
operation of the block: `Machine.exec` runs it. -/

namespace Sys2Proof

/-- The operation has a command word (`30_encoding.md` R72). -/
def Instr.wf : Instr → Bool
  | .encode _ => true
  | .clear => true
  | .setup => true
  | .displayRaw _ _ _ _ _ => true
  | .displayDec _ _ => true
  | .displayHex _ _ => true
  | .colon _ => true
  | .displayText text => text.length ≤ Config.textMax
  | .refresh => true

end Sys2Proof
end

