-- ==== Sys2Proof/Decode.lean ====
section
/-! DEFINITION. The command words of `30_encoding.md` section 4 (the spec's own encoding, `92_eei_decisions.md` D3): the
header table, the decoder, total on any bytes and rejecting by name, and the encoder. -/

namespace Sys2Proof

/-- The high byte of a word, bits 15..8 (`00_scope.md` R11). -/
def Word.high (w : Word) : Byte := w.extractLsb' 8 8

/-- The low byte of a word, bits 7..0 (`00_scope.md` R11). -/
def Word.low (w : Word) : Byte := w.extractLsb' 0 8

/-- A 16-bit value from two bytes, most significant byte first (`30_encoding.md` R71, `20_memory.md` R43). -/
def Word.ofBytes (hi lo : Byte) : Word := hi ++ lo

/-- The nine rows of the header table. -/
inductive Opcode where
  | encode
  | clear
  | setup
  | displayRaw
  | displayDec
  | displayHex
  | colon
  | displayText
  | refresh
  deriving DecidableEq, Repr

/-- One row of the header table of `30_encoding.md` R71. -/
structure HeaderRow where
  opcode : Opcode
  pattern : Word
  mask : Word
  deriving DecidableEq, Repr

/-- The header table (`30_encoding.md` R71, columns match and mask). -/
def headerTable : List HeaderRow :=
  [ ⟨.encode, 0x0100, 0xFF00⟩,
    ⟨.clear, 0x0200, 0xFFFF⟩,
    ⟨.setup, 0x0300, 0xFFFF⟩,
    ⟨.displayRaw, 0x0400, 0xFFFE⟩,
    ⟨.displayDec, 0x0500, 0xFFFF⟩,
    ⟨.displayHex, 0x0501, 0xFFFF⟩,
    ⟨.colon, 0x0600, 0xFFFE⟩,
    ⟨.displayText, 0x0700, 0xFF00⟩,
    ⟨.refresh, 0x0800, 0xFFFF⟩ ]

/-- "A header `h` selects the row whose `(h & mask) = match`" (`30_encoding.md` R71). -/
def HeaderRow.selects (h : Word) (r : HeaderRow) : Bool := h &&& r.mask == r.pattern

/-- The row a header selects, if any (`30_encoding.md` R71, R76). -/
def selectRow (h : Word) : Option Opcode := (headerTable.find? (HeaderRow.selects h)).map HeaderRow.opcode

/-- The length of a command in bytes, header included, from its row and modifier (`30_encoding.md` R72). -/
def Opcode.commandLength (modifier : Byte) : Opcode → Nat
  | .encode => 2
  | .clear => 2
  | .setup => 2
  | .displayRaw => 10
  | .displayDec => 4
  | .displayHex => 4
  | .colon => 2
  | .displayText => 2 + modifier.toNat
  | .refresh => 2

/-- What the decoder answers. -/
inductive Decoded where
  /-- One operation, and the bytes after its command. -/
  | instr (i : Instr) (rest : List Byte)
  /-- The header selects no operation (`30_encoding.md` R76). -/
  | reservedHeader
  /-- The payload is shorter than the header demands (`30_encoding.md` R76). -/
  | shortPayload
  /-- Fewer than the two bytes of a header: no command stands here yet (log 13). -/
  | noHeader
  deriving DecidableEq, Repr

/-- The first `n` bytes and the rest, if there are that many: looks at no byte beyond them. -/
def takeBytes : Nat → List Byte → Option (List Byte × List Byte)
  | 0, bytes => some ([], bytes)
  | _ + 1, [] => none
  | n + 1, b :: bytes =>
    match takeBytes n bytes with
    | some (front, rest) => some (b :: front, rest)
    | none => none

/-- Reads the payload of a command whose header selected a row (`30_encoding.md` R71, column payload bytes). -/
def decodePayload (modifier : Byte) (payload : List Byte) : Opcode → Decoded
  | .encode => .instr (.encode modifier) payload
  | .clear => .instr .clear payload
  | .setup => .instr .setup payload
  | .displayRaw =>
    match payload with
    | a :: b :: c :: d :: e :: f :: g :: h :: rest =>
      .instr (.displayRaw (Word.ofBytes a b) (Word.ofBytes c d) (Word.ofBytes e f) (Word.ofBytes g h)
        (modifier.getLsbD 0)) rest
    | _ => .shortPayload
  | .displayDec =>
    match payload with
    | hi :: lo :: rest => .instr (.displayDec hi lo) rest
    | _ => .shortPayload
  | .displayHex =>
    match payload with
    | hi :: lo :: rest => .instr (.displayHex hi lo) rest
    | _ => .shortPayload
  | .colon => .instr (.colon (modifier.getLsbD 0)) payload
  | .displayText =>
    match takeBytes modifier.toNat payload with
    | some (text, rest) => .instr (.displayText text) rest
    | none => .shortPayload
  | .refresh => .instr .refresh payload

/-- Decodes the first command of a byte sequence (`30_encoding.md` R71, R72, R76). -/
def decode : List Byte → Decoded
  | op :: modifier :: payload =>
    match selectRow (Word.ofBytes op modifier) with
    | some row => decodePayload modifier payload row
    | none => .reservedHeader
  | _ => .noHeader

/-- A flag in modifier bit 0, bits 7..1 zero (`30_encoding.md` R71). -/
def flagModifier (flag : Bool) : Byte := if flag then 0x01 else 0x00

/-- The two bytes of a 16-bit payload field, most significant first (`30_encoding.md` R71). -/
def fieldBytes (w : Word) : List Byte := [w.high, w.low]

/-- The command bytes of an operation (`30_encoding.md` R71). Meant for well-formed operations: the length of a longer
text does not fit the modifier. -/
def encode : Instr → List Byte
  | .encode c => [0x01, c]
  | .clear => [0x02, 0x00]
  | .setup => [0x03, 0x00]
  | .displayRaw m1 m2 m3 m4 k =>
    [0x04, flagModifier k] ++ fieldBytes m1 ++ fieldBytes m2 ++ fieldBytes m3 ++ fieldBytes m4
  | .displayDec hi lo => [0x05, 0x00, hi, lo]
  | .displayHex hi lo => [0x05, 0x01, hi, lo]
  | .colon e => [0x06, flagModifier e]
  | .displayText text => 0x07 :: BitVec.ofNat 8 text.length :: text
  | .refresh => [0x08, 0x00]

/-- How many 16-bit words hold the longest command, 2 + 255 bytes. -/
def longestCommandWords : Nat := 129

/-- The bytes of an instruction whose bits are numbered as the opcode table numbers them: 16-bit words, the header first,
each most significant byte first (log 16). Bits above `nbits` are zero. -/
def tableBytes (nbits w : Nat) : List Byte :=
  (List.range longestCommandWords).flatMap fun j => fieldBytes (BitVec.ofNat 16 ((w % 2 ^ nbits) >>> (16 * j)))

/-- The instruction the decoder reads from an instruction word of the opcode table. -/
def decodeTableWord (nbits w : Nat) : Option Instr :=
  match decode (tableBytes nbits w) with
  | .instr i _ => some i
  | .reservedHeader => none
  | .shortPayload => none
  | .noHeader => none

end Sys2Proof
end

