-- ==== Sys2Proof/Machine/Flags.lean ====
section
/-! DEFINITION. The named flags of a digit word and the composition of a word from them (`30_encoding.md` R60 to R65).
These are data bits; the block has no status flags (`10_state.md` R29). -/

namespace Sys2Proof.Machine

namespace DigitFlag

/-- Digit-select flag of physical digit 1, bit 15 (`30_encoding.md` R61, as every constant of this namespace). -/
def D1 : Word := 0x8000
/-- Segment A, bit 14. -/
def A : Word := 0x4000
/-- Segment F, bit 13. -/
def F : Word := 0x2000
/-- Digit-select flag of physical digit 2, bit 12. -/
def D2 : Word := 0x1000
/-- Segment E, bit 11. -/
def E : Word := 0x0800
/-- Segment D, bit 10. -/
def D : Word := 0x0400
/-- Decimal point, bit 9. -/
def DP : Word := 0x0200
/-- Segment C, bit 7. -/
def C : Word := 0x0080
/-- Segment G, bit 6. -/
def G : Word := 0x0040
/-- Digit-select flag of physical digit 4, bit 5. -/
def D4 : Word := 0x0020
/-- Digit-select flag of physical digit 3, bit 4. -/
def D3 : Word := 0x0010
/-- Segment B, bit 3. -/
def B : Word := 0x0008
/-- Colon flag, bit 2. -/
def CC : Word := 0x0004

end DigitFlag

/-- The four digit-select flags together (`30_encoding.md` R61). -/
def selectFlags : Word := DigitFlag.D1 ||| DigitFlag.D2 ||| DigitFlag.D3 ||| DigitFlag.D4

/-- The control bits: the digit-select flags and the colon flag (`30_encoding.md` R61). -/
def controlBits : Word := selectFlags ||| DigitFlag.CC

/-- The eight segment flags (`30_encoding.md` R61). -/
def segmentFlags : Word :=
  DigitFlag.A ||| DigitFlag.B ||| DigitFlag.C ||| DigitFlag.D ||| DigitFlag.E ||| DigitFlag.F ||| DigitFlag.G ||| DigitFlag.DP

/-- The three unused bits 8, 1 and 0 (`30_encoding.md` R61, R64). -/
def unusedBits : Word := 0x0103

/-- MASK: "the complement of the four digit-select bits and the colon bit" (`30_encoding.md` R62; the reading is
`92_eei_decisions.md` D6, log 7). -/
def mask : Word := ~~~controlBits

/-- `DSEL[i]`, the digit-select flag of buffer index `i` (`30_encoding.md` R63). -/
def dsel : Fin 4 → Word
  | 0 => DigitFlag.D1
  | 1 => DigitFlag.D2
  | 2 => DigitFlag.D3
  | 3 => DigitFlag.D4

/-- `c ? CC : 0` (`30_encoding.md` R69). -/
def colonBit (c : Bool) : Word := if c then DigitFlag.CC else 0x0000

/-- A digit word: "(digit-select bit for its position) | (segment bits, masked) | (colon bit, optional)"
(`30_encoding.md` R65). -/
def composeWord (k : Fin 4) (segments colon : Word) : Word := dsel k ||| segments ||| colon

/-- A word of the raw display under a value of MASK (`41_controller_basic.md` R114, `30_encoding.md` R69). -/
def rawWord (maskValue : Word) (k : Fin 4) (m : Word) (colon : Bool) : Word :=
  composeWord k (maskValue &&& m) (colonBit colon)

/-- Sets or clears the colon flag of a word (`41_controller_basic.md` R116). -/
def withColon (enabled : Bool) (w : Word) : Word := if enabled then w ||| DigitFlag.CC else w &&& ~~~DigitFlag.CC

end Sys2Proof.Machine
end

