-- ==== Sys2Proof/Machine/Lut.lean ====
section
/-! DEFINITION. The encoder table LUT (`40_segment_encoder.md` R91 to R94), written from the segment letters of R91. The
codes are ASCII (PRESUMED by the spec, `92_eei_decisions.md` D4, log 6). -/

namespace Sys2Proof.Machine

open DigitFlag

/-- A row of the table: a code and its segment mask. -/
abbrev LutRow := Nat × Word

/-- Rows 1 to 10 of R91, the characters '0' to '9'. -/
def digitRows : List LutRow :=
  [ (0x30, A ||| B ||| C ||| D ||| E ||| F),
    (0x31, B ||| C),
    (0x32, A ||| B ||| G ||| E ||| D),
    (0x33, A ||| B ||| C ||| D ||| G),
    (0x34, B ||| C ||| F ||| G),
    (0x35, A ||| F ||| G ||| C ||| D),
    (0x36, A ||| C ||| D ||| E ||| F ||| G),
    (0x37, A ||| B ||| C),
    (0x38, A ||| B ||| C ||| D ||| E ||| F ||| G),
    (0x39, A ||| B ||| C ||| D ||| F ||| G) ]

/-- Rows 11 to 16 of R91, the characters 'A' to 'F'. -/
def hexLetterRows : List LutRow :=
  [ (0x41, A ||| B ||| C ||| E ||| F ||| G),
    (0x42, C ||| D ||| E ||| F ||| G),
    (0x43, A ||| D ||| E ||| F),
    (0x44, B ||| C ||| D ||| E ||| G),
    (0x45, A ||| D ||| E ||| F ||| G),
    (0x46, A ||| E ||| F ||| G) ]

/-- Rows 17 to 28 of R91, the characters H h J L n o P r t U u Y. -/
def letterRows : List LutRow :=
  [ (0x48, B ||| C ||| E ||| F ||| G),
    (0x68, C ||| E ||| F ||| G),
    (0x4A, A ||| B ||| C ||| D ||| E),
    (0x4C, D ||| E ||| F),
    (0x6E, C ||| E ||| G),
    (0x6F, C ||| D ||| E ||| G),
    (0x50, A ||| B ||| E ||| F ||| G),
    (0x72, E ||| G),
    (0x74, D ||| E ||| F ||| G),
    (0x55, B ||| C ||| D ||| E ||| F),
    (0x75, C ||| D ||| E),
    (0x59, B ||| C ||| D ||| F ||| G) ]

/-- Rows 29 to 36 of R91: minus, equals, double quote, apostrophe, point, comma, colon, space. -/
def punctuationRows : List LutRow :=
  [ (0x2D, G),
    (0x3D, A ||| D),
    (0x22, B ||| F),
    (0x27, F),
    (0x2E, DP),
    (0x2C, C),
    (0x3A, CC),
    (0x20, 0x0000) ]

/-- Row 37 of R91: the integers 0x0 to 0xF, "same as the digit/hex-letter rows above" (the dual keys of R92). -/
def integerRows : List LutRow := (digitRows ++ hexLetterRows).zipIdx.map fun r => (r.2, r.1.2)

/-- The 52 keys (`40_segment_encoder.md` R94). -/
def lutRows : List LutRow := integerRows ++ digitRows ++ hexLetterRows ++ letterRows ++ punctuationRows

/-- `LUT[c]`, total over every natural number: a code that is no key reads 0x0000 (`40_segment_encoder.md` R93, R94;
`93_implementation_defined.md` U15). -/
def lut (c : Nat) : Word := (lutRows.lookup c).getD 0x0000

end Sys2Proof.Machine
end

