-- ==== Sys2Proof/Machine/Operands.lean ====
section
/-! DEFINITION. How operands become the segment parts of digit words (`30_encoding.md` R69), and how the call forms of
the source become operations (R77, R78). -/

namespace Sys2Proof.Machine

/-- The code of the character 'E' (`00_scope.md` section 6: "`'E'` is `0x45`"). -/
def charE : Nat := 0x45

/-- The code of the character '.' (`43_formatter_text.md` R145). -/
def charPoint : Byte := 0x2E

/-- The largest value two decimal digits show (`42_formatter_numeric.md` R132). -/
def decimalMax : Nat := 99

/-- The two glyphs of a decimal operand, tens first, or 'E','E' above 99 (`42_formatter_numeric.md` R131, R132). -/
def decimalGlyphs (v : Byte) : Word × Word :=
  if v.toNat > decimalMax then (lut charE, lut charE) else (lut (v.toNat / 10), lut (v.toNat % 10))

/-- The two glyphs of a hexadecimal operand, high nibble first (`42_formatter_numeric.md` R134, R135). -/
def hexGlyphs (v : Byte) : Word × Word := (lut (v >>> 4).toNat, lut (v &&& 0xF).toNat)

/-- The segment parts of the four words of a two-value display: `hi` on words 0 and 1, `lo` on words 2 and 3
(`42_formatter_numeric.md` R131, R134). -/
def pairSegments (glyphs : Byte → Word × Word) (hi lo : Byte) : Fin 4 → Word
  | 0 => (glyphs hi).1
  | 1 => (glyphs hi).2
  | 2 => (glyphs lo).1
  | 3 => (glyphs lo).2

/-- `maskᵢ`: `mask1` goes to `W[0]` and so on (`41_controller_basic.md` R114). -/
def rawMask (mask1 mask2 mask3 mask4 : Word) : Fin 4 → Word
  | 0 => mask1
  | 1 => mask2
  | 2 => mask3
  | 3 => mask4

/-- DISPLAY_PAIR dispatches on its format operand (`42_formatter_numeric.md` R130). -/
def displayPair (hi lo : Byte) : Format → Instr
  | .decimal => .displayDec hi lo
  | .hex => .displayHex hi lo

/-- The operation a call form of the source names, with the defaults of `30_encoding.md` R77: raw display's colon is
false when omitted, COLON's enabled is true when omitted. -/
def instrOfCall : Call → Instr
  | .encode c => .encode c
  | .clear => .clear
  | .setup => .setup
  | .displayMasks m1 m2 m3 m4 colon => .displayRaw m1 m2 m3 m4 (colon.getD false)
  | .displayPair hi lo format => displayPair hi lo format
  | .displayText text => .displayText text
  | .colon enabled => .colon (enabled.getD true)
  | .refresh => .refresh

end Sys2Proof.Machine
end

