-- ==== Sys2Proof/Machine/State.lean ====
section
/-! DEFINITION. The state of one driver instance (`10_state.md` R20), as plain data, its reasons to stop, and the state
after construction. -/

namespace Sys2Proof.Machine

/-- The digit buffer: four 16-bit words, index 0..3 for physical digits 1..4, left to right (`10_state.md` R21, R22). -/
structure DigitBuffer where
  w0 : Word
  w1 : Word
  w2 : Word
  w3 : Word
  deriving DecidableEq, Repr

/-- `LINE[l]`: the level a line was last driven to, `none` being "never driven" (`10_state.md` R27). -/
abbrev LineLevel := Option Bool

/-- The levels of the three output lines (`10_state.md` R27). -/
structure Lines where
  data : LineLevel
  clock : LineLevel
  latch : LineLevel
  deriving DecidableEq, Repr

/-- The events of the L1 trace, the normative output of the block (`44_transceiver.md` R164). -/
inductive Event where
  | configure (l : Line)
  | latchLow
  | shiftOut8 (b : Byte)
  | latchHigh
  deriving DecidableEq, Repr

/-- One event `Set(l, v)` of the L0 trace (`44_transceiver.md` R166). -/
structure LineWrite where
  line : Line
  level : Bool
  deriving DecidableEq, Repr

/-- The block has no fault: "There is no `fault` outcome and no stuck state" (`60_exceptions.md` R185, R200). -/
inductive Fault where
  deriving DecidableEq, Repr

/-- The refusals, the closed list of `60_exceptions.md` R200. A refusal changes no state and emits nothing; every one is
safe: the model proves nothing of the refused case. -/
inductive Refusal where
  /-- An operation without a meaning in the model. Raised by no arm of `exec`. -/
  | notModelled (mnemonic : String)
  /-- Raised by construction, when two of the three pin identifiers are equal (`10_state.md` R25). Safe. -/
  | pinsNotDistinct
  /-- Raised by DISPLAY_TEXT, when the walk reaches a code 0x00 (`43_formatter_text.md` R152). Safe. -/
  | textNulReached
  /-- Raised by the fetch of a command whose header selects no operation (`30_encoding.md` R76). Safe. -/
  | reservedHeader
  /-- Raised by the fetch of a command whose payload is shorter than its header demands (`30_encoding.md` R76). Safe. -/
  | shortPayload
  /-- Raised by the construction of several instances of which two name one line (`60_exceptions.md` R197). Safe. -/
  | sharedLine
  deriving DecidableEq, Repr

/-- The state of one driver instance. The first four fields are `10_state.md` R20's; `trace`, `result` and `input` are the
model's own and carry the trace, the result and the host's command bytes (`00_scope.md` R8; logs 1, 4, 5). -/
structure State where
  /-- `W[0..3]` (`10_state.md` R21). -/
  buf : DigitBuffer
  /-- `PIN_DATA`, `PIN_LATCH`, `PIN_CLOCK` (`10_state.md` R25). -/
  pins : PinConfig
  /-- `CFG` (`10_state.md` R26). -/
  cfg : Bool
  /-- `LINE[DATA]`, `LINE[CLOCK]`, `LINE[LATCH]` (`10_state.md` R27). -/
  lines : Lines
  /-- The L1 trace since construction, oldest event first (`20_memory.md` R49, `44_transceiver.md` R164). -/
  trace : List Event
  /-- The result of the last operation, `none` for every operation but ENCODE (`00_scope.md` R8). -/
  result : Option Word
  /-- Command bytes sent by the host and not yet taken (`30_encoding.md` R71). -/
  input : List Byte
  deriving DecidableEq, Repr

def State.setBuf (b : DigitBuffer) (s : State) : State := { s with buf := b }
def State.setCfg (c : Bool) (s : State) : State := { s with cfg := c }
def State.setResult (r : Option Word) (s : State) : State := { s with result := r }
def State.setInput (bytes : List Byte) (s : State) : State := { s with input := bytes }
/-- Appends an event to the trace and replaces the line levels. -/
def State.logEvent (e : Event) (l : Lines) (s : State) : State := { s with trace := s.trace ++ [e], lines := l }

/-- The state after construction with the pin configuration `p` (`70_reset_and_hazards.md` R210). -/
def State.fresh (p : PinConfig) : State where
  buf := { w0 := 0x0000, w1 := 0x0000, w2 := 0x0000, w3 := 0x0000 }
  pins := p
  cfg := false
  lines := { data := none, clock := none, latch := none }
  trace := []
  result := none
  input := []

/-- The machine right after reset: the construction of the instance whose pins are `Config.pins` (log 3). -/
def State.reset : State := State.fresh Config.pins

end Sys2Proof.Machine
end

