-- ==== Sys2Proof/Machine/Ops.lean ====
section
/-! DEFINITION. The shared operations: the digit buffer, the output lines and the trace, the micro-operations SHIFT_OUT8 and
TRANSMIT, the bodies of CLEAR and REFRESH that SETUP expands to, construction, and the fetch of a command. The block takes
no exception and returns from none (`60_exceptions.md` R185, R191, R192), so there is no operation for either. -/

namespace Sys2Proof.Machine

/-! ### The digit buffer -/

/-- `W[k]` (`00_scope.md` section 6). -/
def DigitBuffer.get (b : DigitBuffer) : Fin 4 → Word
  | 0 => b.w0
  | 1 => b.w1
  | 2 => b.w2
  | 3 => b.w3

/-- `W[k] <- v`. -/
def DigitBuffer.set (b : DigitBuffer) (v : Word) : Fin 4 → DigitBuffer
  | 0 => { b with w0 := v }
  | 1 => { b with w1 := v }
  | 2 => { b with w2 := v }
  | 3 => { b with w3 := v }

/-- `W[k] <- W[k] | v`. -/
def DigitBuffer.orInto (b : DigitBuffer) (k : Fin 4) (v : Word) : DigitBuffer := b.set (b.get k ||| v) k

/-- The buffer whose word `k` is `f k`. -/
def DigitBuffer.ofFn (f : Fin 4 → Word) : DigitBuffer := { w0 := f 0, w1 := f 1, w2 := f 2, w3 := f 3 }

/-- The indices in physical order, digit 1 to digit 4 (`20_memory.md` R43). -/
def digitOrder : List (Fin 4) := [0, 1, 2, 3]

/-! ### Lines, events and the trace -/

def Lines.get (ls : Lines) : Line → LineLevel
  | .data => ls.data
  | .clock => ls.clock
  | .latch => ls.latch

/-- Drives one line to a level: one L0 event (`44_transceiver.md` R166). -/
def Lines.write (ls : Lines) (w : LineWrite) : Lines :=
  match w.line with
  | .data => { ls with data := some w.level }
  | .clock => { ls with clock := some w.level }
  | .latch => { ls with latch := some w.level }

/-- The line writes for one bit: present it on DATA, then pulse CLOCK (`44_transceiver.md` R163, R166). -/
def bitWrites (pulse : List Bool) (bit : Bool) : List LineWrite :=
  { line := .data, level := bit } :: pulse.map fun v => { line := .clock, level := v }

/-- Bit positions of a byte in the order they leave, most significant first (`44_transceiver.md` R163). -/
def shiftOrder : List Nat := [7, 6, 5, 4, 3, 2, 1, 0]

/-- The L0 refinement of an L1 event under a shape of the clock pulse (`44_transceiver.md` R166). Configuring a line writes
no level (`92_eei_decisions.md` D18). -/
def Event.lineWritesWith (pulse : List Bool) : Event → List LineWrite
  | .configure _ => []
  | .latchLow => [{ line := .latch, level := false }]
  | .shiftOut8 b => shiftOrder.flatMap fun n => bitWrites pulse (b.getLsbD n)
  | .latchHigh => [{ line := .latch, level := true }]

/-- The L0 refinement under CLOCK_PULSE (log 9). -/
def Event.lineWrites (e : Event) : List LineWrite := e.lineWritesWith Config.clockPulse

/-- The L0 trace of a list of events (`44_transceiver.md` R166). -/
def lineTrace (es : List Event) : List LineWrite := es.flatMap Event.lineWrites

/-- `emit e`: appends the event to the trace; the lines follow its line writes if they have been configured, and stay as
they are if not (`10_state.md` R27, `44_transceiver.md` R171; log 11). -/
def emit (e : Event) (s : State) : State :=
  s.logEvent e (if s.cfg then e.lineWrites.foldl Lines.write s.lines else s.lines)

/-! ### The hardware-access layer's primitives, with the identifiers of the instance -/

/-- `PIN_l` (`10_state.md` R25). -/
def pinOf (p : PinConfig) : Line → PinId
  | .data => p.data
  | .clock => p.clock
  | .latch => p.latch

/-- The primitive calls of `00_scope.md` R5, addressed to line identifiers. -/
inductive PinCall where
  /-- Configure a line for writing (`41_controller_basic.md` R112). -/
  | configureOutput (pin : PinId)
  /-- Primitive (a): drive one named line to one of two levels (`90_conflicts.md` C6). -/
  | drive (pin : PinId) (level : Bool)
  /-- Primitive (b): shift out 8 bits on a clock/data pair. -/
  | shiftOut (dataPin clockPin : PinId) (b : Byte)
  deriving DecidableEq, Repr

/-- The primitive call an event is: "Every event is addressed to the lines of the instance that emitted it"
(`44_transceiver.md` R164). -/
def Event.pinCall (p : PinConfig) : Event → PinCall
  | .configure l => .configureOutput (pinOf p l)
  | .latchLow => .drive (pinOf p .latch) false
  | .shiftOut8 b => .shiftOut (pinOf p .data) (pinOf p .clock) b
  | .latchHigh => .drive (pinOf p .latch) true

/-- The trace of an instance as calls of the hardware-access layer. -/
def pinCalls (s : State) : List PinCall := s.trace.map (Event.pinCall s.pins)

/-! ### Micro-operations and the operations SETUP expands to -/

/-- SHIFT_OUT8 `b` (`44_transceiver.md` R163). -/
def shiftOut8 (b : Byte) (s : State) : State := emit (.shiftOut8 b) s

/-- TRANSMIT `w`: one frame, high byte first (`44_transceiver.md` R162). -/
def transmit (w : Word) (s : State) : State :=
  emit .latchHigh (shiftOut8 w.low (shiftOut8 w.high (emit .latchLow s)))

/-- REFRESH: transmits the four words, `W[0]` first (`44_transceiver.md` R160). -/
def refresh (s : State) : State := digitOrder.foldl (fun s k => transmit (s.buf.get k) s) s

/-- Assigns all four words: `for k in 0..3: W[k] <- f k`. -/
def fillBuffer (f : Fin 4 → Word) (s : State) : State := s.setBuf (DigitBuffer.ofFn f)

/-- CLEAR (`41_controller_basic.md` R110). -/
def clear (s : State) : State := fillBuffer (fun _ => 0x0000) s

/-- Emits `Configure(l)` for each line of a list, in order (`41_controller_basic.md` R112). -/
def configureLines (order : List Line) (s : State) : State := order.foldl (fun s l => emit (.configure l) s) s

/-- SETUP under an order of the Configure events: configure, CFG, CLEAR, REFRESH (`41_controller_basic.md` R112). -/
def setupWith (order : List Line) (s : State) : State := refresh (clear ((configureLines order s).setCfg true))

/-- Ends an operation that returns nothing to the host (`00_scope.md` R8: `Result` is empty). -/
def finish (s : State) : Host.Outcome State Fault Refusal := .next (s.setResult none)

/-! ### Construction and fetch -/

/-- The three identifiers of a pin configuration. -/
def pinIds (p : PinConfig) : List PinId := [p.data, p.latch, p.clock]

/-- "three distinct identifiers" (`10_state.md` R25). -/
def pinsDistinct (p : PinConfig) : Bool := (pinIds p).Nodup

/-- Construction of an instance, the block's only reset (`70_reset_and_hazards.md` R210); refused when two identifiers are
equal (`10_state.md` R25). -/
def construct (p : PinConfig) : Host.Outcome State Fault Refusal :=
  if pinsDistinct p then .next (State.fresh p) else .refused .pinsNotDistinct

/-- What the fetch finds at the head of the host's bytes. -/
inductive Fetched where
  /-- The host has sent no command header yet. -/
  | nothing
  /-- A command; `after` is the state with its bytes taken. -/
  | command (i : Instr) (after : State)
  /-- A command that is refused. -/
  | refused (r : Refusal)
  deriving DecidableEq, Repr

/-- Takes the next command from the host's bytes; refuses what `30_encoding.md` R76 refuses and nothing else
(`60_exceptions.md` R200; logs 1, 13). -/
def fetch (s : State) : Fetched :=
  match decode s.input with
  | .instr i rest => .command i (s.setInput rest)
  | .reservedHeader => .refused .reservedHeader
  | .shortPayload => .refused .shortPayload
  | .noHeader => .nothing

end Sys2Proof.Machine
end

