-- ==== Sys2Proof/Machine/Controller.lean ====
section
/-! DEFINITION. The controller's basic operations (`41_controller_basic.md`). -/

namespace Sys2Proof.Machine

/-- CLEAR (`41_controller_basic.md` R110). -/
def execClear (s : State) : Host.Outcome State Fault Refusal := finish (clear s)

/-- SETUP, with the Configure events in CONFIGURE_ORDER (`41_controller_basic.md` R112; log 10). -/
def execSetup (s : State) : Host.Outcome State Fault Refusal := finish (setupWith Config.configureOrder s)

/-- DISPLAY_RAW (`41_controller_basic.md` R114). -/
def execDisplayRaw (mask1 mask2 mask3 mask4 : Word) (colon : Bool) (s : State) : Host.Outcome State Fault Refusal :=
  finish (fillBuffer (fun k => rawWord mask k (rawMask mask1 mask2 mask3 mask4 k) colon) s)

/-- COLON (`41_controller_basic.md` R116). -/
def execColon (enabled : Bool) (s : State) : Host.Outcome State Fault Refusal :=
  finish (fillBuffer (fun k => withColon enabled (s.buf.get k)) s)

end Sys2Proof.Machine
end

