-- ==== Sys2Proof/Machine/Encoder.lean ====
section
/-! DEFINITION. The segment encoder's operation (`40_segment_encoder.md`). -/

namespace Sys2Proof.Machine

/-- ENCODE `c`: returns `LUT[c]`, touches nothing else (`40_segment_encoder.md` R90, R97). -/
def execEncode (c : Byte) (s : State) : Host.Outcome State Fault Refusal := .next (s.setResult (some (lut c.toNat)))

end Sys2Proof.Machine
end

