-- ==== Sys2Proof/Machine/Formatter.lean ====
section
/-! DEFINITION. The two-value display (`42_formatter_numeric.md`). -/

namespace Sys2Proof.Machine

/-- Assigns the four words of a two-value display: each is `DSEL[k] | encode(…)`, without a colon
(`42_formatter_numeric.md` R131, R134, R136). -/
def displayGlyphPairs (glyphs : Byte → Word × Word) (hi lo : Byte) (s : State) : State :=
  fillBuffer (fun k => composeWord k (pairSegments glyphs hi lo k) (colonBit false)) s

/-- DISPLAY_DEC (`42_formatter_numeric.md` R131). -/
def execDisplayDec (hi lo : Byte) (s : State) : Host.Outcome State Fault Refusal :=
  finish (displayGlyphPairs decimalGlyphs hi lo s)

/-- DISPLAY_HEX (`42_formatter_numeric.md` R134). -/
def execDisplayHex (hi lo : Byte) (s : State) : Host.Outcome State Fault Refusal :=
  finish (displayGlyphPairs hexGlyphs hi lo s)

end Sys2Proof.Machine
end

