-- ==== Sys2Proof/Machine/Text.lean ====
section
/-! DEFINITION. The text display (`43_formatter_text.md`). -/

namespace Sys2Proof.Machine

/-- `max(i - 1, 0)`, the previous physical digit, or digit 0 if none yet written (`43_formatter_text.md` R153). -/
def previousDigit (i : Fin 4) : Fin 4 := ⟨i.val - 1, by omega⟩

/-- The text walk from cursor `i` over the rest of the text (`43_formatter_text.md` R145); `none` where a code 0x00 is
refused. The tests come in the order of `60_exceptions.md` R190: cursor and input, 0x00, '.', encoder. -/
def textWalk (policy : TextNulPolicy) : List Byte → Nat → DigitBuffer → Option DigitBuffer
  | [], _, b => some b
  | c :: rest, i, b =>
    if h : i < 4 then
      if c = 0x00 ∧ policy = .refuse then none
      else if c = 0x00 ∧ policy = .terminate then some b
      else if c = charPoint then textWalk policy rest i (b.orInto (previousDigit ⟨i, h⟩) DigitFlag.DP)
      else textWalk policy rest (i + 1) (b.orInto ⟨i, h⟩ (lut c.toNat))
    else some b

/-- DISPLAY_TEXT under a TEXT_NUL_POLICY: every word to its digit-select flag, then the walk from cursor 0
(`43_formatter_text.md` R145, R152). -/
def displayTextWith (policy : TextNulPolicy) (text : List Byte) (s : State) : Host.Outcome State Fault Refusal :=
  match textWalk policy text 0 (DigitBuffer.ofFn dsel) with
  | some b => finish (s.setBuf b)
  | none => .refused .textNulReached

/-- DISPLAY_TEXT (`43_formatter_text.md` R145; the policy is log 8). -/
def execDisplayText (text : List Byte) (s : State) : Host.Outcome State Fault Refusal :=
  displayTextWith Config.textNulPolicy text s

end Sys2Proof.Machine
end

