-- ==== Sys2Proof/Machine/Transceiver.lean ====
section
/-! DEFINITION. The transceiver's operation (`44_transceiver.md`); TRANSMIT and SHIFT_OUT8 are shared operations of
`Machine/Ops.lean`. -/

namespace Sys2Proof.Machine

/-- REFRESH (`44_transceiver.md` R160). -/
def execRefresh (s : State) : Host.Outcome State Fault Refusal := finish (refresh s)

end Sys2Proof.Machine
end

