-- ==== Sys2Proof/Machine/Dispatch.lean ====
section
/-! DEFINITION. One operation is one step (`00_scope.md` R8): the dispatch from each operation to its meaning. -/

namespace Sys2Proof.Machine

/-- The effect of one host-issued operation in its abstract form (`00_scope.md` R8, `30_encoding.md` R70). -/
def exec (i : Instr) (s : State) : Host.Outcome State Fault Refusal :=
  match i with
  | .encode c => Sys2Proof.Machine.execEncode c s
  | .clear => Sys2Proof.Machine.execClear s
  | .setup => Sys2Proof.Machine.execSetup s
  | .displayRaw m1 m2 m3 m4 colon => Sys2Proof.Machine.execDisplayRaw m1 m2 m3 m4 colon s
  | .displayDec hi lo => Sys2Proof.Machine.execDisplayDec hi lo s
  | .displayHex hi lo => Sys2Proof.Machine.execDisplayHex hi lo s
  | .colon enabled => Sys2Proof.Machine.execColon enabled s
  | .displayText text => Sys2Proof.Machine.execDisplayText text s
  | .refresh => Sys2Proof.Machine.execRefresh s

end Sys2Proof.Machine
end

