-- ==== Sys2Proof/Machine/Step.lean ====
section
/-! DEFINITION. One step: the operation of the host's next command word. With no command sent, nothing or half a
header, the block holds its state (`60_exceptions.md` R199; logs 2, 13). -/

namespace Sys2Proof.Machine

/-- Takes the host's next command and runs it; a refused command changes no state (`30_encoding.md` R76). -/
def step (s : State) : Host.Outcome State Fault Refusal :=
  match fetch s with
  | .nothing => .next s
  | .command i after => exec i after
  | .refused r => .refused r

/-- The state in which the host's next bytes are the instruction of a table word (log 16). It stands for the host sending
that command, which is how operations come to run (log 1). -/
def State.withFetchWord (s : State) (nbits w : Nat) : State := s.setInput (tableBytes nbits w)

end Sys2Proof.Machine
end

