-- ==== Sys2Proof/Machine/Receiver.lean ====
section
/-! DEFINITION. The informative receiver of `44_transceiver.md` R169, an observer of the L0 trace. It is not part of the
block: no operation reads or writes it (PRESUMED by the spec, `92_eei_decisions.md` D20, log 12). -/

namespace Sys2Proof.Machine

/-- A shift-register chain of `bits` stages. What it holds before the first frame is unconstrained
(`70_reset_and_hazards.md` R211): a claim quantifies over every receiver. -/
structure Receiver (bits : Nat) where
  /-- `SR`, the shift register. -/
  sr : BitVec bits
  /-- `OUT`, the output register. -/
  out : BitVec bits
  /-- The level at its DATA input. -/
  data : Bool
  /-- The last level written on CLOCK, `none` before the first. -/
  clock : Option Bool
  deriving DecidableEq, Repr

/-- The effect of one line write: a rising CLOCK shifts DATA in at the low end, `Set(LATCH, 1)` loads `OUT`
(`44_transceiver.md` R169). -/
def Receiver.onWrite {bits : Nat} (r : Receiver bits) (w : LineWrite) : Receiver bits :=
  match w.line with
  | .data => { r with data := w.level }
  | .clock =>
    if w.level = true ∧ r.clock ≠ some true then
      { r with sr := r.sr.shiftConcat r.data, clock := some true }
    else { r with clock := some w.level }
  | .latch => if w.level then { r with out := r.sr } else r

/-- The receiver after a list of L1 events, seen at L0. -/
def Receiver.run {bits : Nat} (r : Receiver bits) (es : List Event) : Receiver bits :=
  (lineTrace es).foldl Receiver.onWrite r

end Sys2Proof.Machine
end

