-- ==== Sys2Proof/Machine/System.lean ====
section
/-! DEFINITION. Several driver instances (`60_exceptions.md` R197): independent machines under one caller, none of which
names a line of another. -/

namespace Sys2Proof.Machine

/-- Any number of instances, each with its own buffer and pins (`10_state.md` R23). -/
structure System where
  instances : List State
  deriving DecidableEq, Repr

/-- Construction of several instances: refused where one has equal identifiers (`10_state.md` R25) or two name a common
line (`60_exceptions.md` R197, R200). -/
def constructSystem (ps : List PinConfig) : Host.Outcome System Fault Refusal :=
  if ¬ ps.all pinsDistinct then .refused .pinsNotDistinct
  else if ¬ (ps.flatMap pinIds).Nodup then .refused .sharedLine
  else .next { instances := ps.map State.fresh }

/-- The caller issues an operation to instance `k`; operations of different instances never overlap
(`92_eei_decisions.md` D19). -/
def execOn (sys : System) (k : Fin sys.instances.length) (i : Instr) : Host.Outcome System Fault Refusal :=
  match exec i (sys.instances.get k) with
  | .next t => .next { instances := sys.instances.set k t }
  | .fault f => .fault f
  | .refused r => .refused r

end Sys2Proof.Machine
end

