-- ==== Sys2Proof/Safety.lean ====
section
/-! DEFINITION. The terms the claims are stated in: expected values transcribed from the spec independently of the
meanings, the invariant of the machine, the frames, and runs of operations. -/

namespace Sys2Proof.Machine

/-- The next state of an outcome, if it is one. -/
def nextOf {α : Type} : Host.Outcome α Fault Refusal → Option α
  | .next t => some t
  | .fault _ => none
  | .refused _ => none

/-! ### What an operation leaves unchanged -/

/-- Everything but the buffer is as before and nothing is returned: the frame of the operations that write the buffer
and emit nothing (`10_state.md` R37). -/
def OnlyBufferWritten (s t : State) : Prop :=
  t.pins = s.pins ∧ t.cfg = s.cfg ∧ t.lines = s.lines ∧ t.trace = s.trace ∧ t.input = s.input ∧ t.result = none

/-- The four words of a buffer, as `95_test_vectors.md` writes them. -/
def bufferWords (b : DigitBuffer) : List Word := [b.w0, b.w1, b.w2, b.w3]

/-- The display operations, which select every digit (`10_state.md` R24). -/
def isDisplay : Instr → Bool
  | .encode _ => false
  | .clear => false
  | .setup => false
  | .displayRaw _ _ _ _ _ => true
  | .displayDec _ _ => true
  | .displayHex _ _ => true
  | .colon _ => false
  | .displayText _ => true
  | .refresh => false

/-- The operations that assign all four words whole (`20_memory.md` R45; SETUP through its CLEAR). -/
def assignsWholeBuffer : Instr → Bool
  | .encode _ => false
  | .clear => true
  | .setup => true
  | .displayRaw _ _ _ _ _ => true
  | .displayDec _ _ => true
  | .displayHex _ _ => true
  | .colon _ => false
  | .displayText _ => true
  | .refresh => false

/-- The key of a hexadecimal digit as a character: '0' to '9', 'A' to 'F' (`40_segment_encoder.md` R92). -/
def digitCode (n : Nat) : Byte := BitVec.ofNat 8 (if n < 10 then 0x30 + n else 0x41 + (n - 10))

/-- The headers that select no operation, as `30_encoding.md` R76 lists them. -/
def isReserved (op modifier : Byte) : Bool :=
  op.toNat == 0x00 || op.toNat ≥ 0x09 ||
  ((op.toNat == 0x02 || op.toNat == 0x03 || op.toNat == 0x08) && modifier.toNat != 0x00) ||
  ((op.toNat == 0x04 || op.toNat == 0x06) && modifier.toNat ≥ 0x02) ||
  (op.toNat == 0x05 && modifier.toNat ≥ 0x02)

/-- The length in bytes of the command of an operation (`30_encoding.md` R72). -/
def commandBytes : Instr → Nat
  | .encode _ => 2
  | .clear => 2
  | .setup => 2
  | .displayRaw _ _ _ _ _ => 10
  | .displayDec _ _ => 4
  | .displayHex _ _ => 4
  | .colon _ => 2
  | .displayText text => 2 + text.length
  | .refresh => 2

/-- A primitive call names only identifiers of `p`, each in its place (`10_state.md` R25). -/
def namesOwnPins (p : PinConfig) : PinCall → Prop
  | .configureOutput pin => pin = p.data ∨ pin = p.latch ∨ pin = p.clock
  | .drive pin _ => pin = p.latch
  | .shiftOut dataPin clockPin _ => dataPin = p.data ∧ clockPin = p.clock

/-! ### The encoder table as values -/

/-- The entries of `40_segment_encoder.md` R94 in its first column of codes, as values. -/
def r94Integers : List LutRow :=
  [ (0x00, 0x6C88), (0x01, 0x0088), (0x02, 0x4C48), (0x03, 0x44C8), (0x04, 0x20C8), (0x05, 0x64C0),
    (0x06, 0x6CC0), (0x07, 0x4088), (0x08, 0x6CC8), (0x09, 0x64C8), (0x0A, 0x68C8), (0x0B, 0x2CC0),
    (0x0C, 0x6C00), (0x0D, 0x0CC8), (0x0E, 0x6C40), (0x0F, 0x6840) ]

/-- The entries of R94 in its second column. -/
def r94Middle : List LutRow :=
  [ (0x22, 0x2008), (0x27, 0x2000), (0x2C, 0x0080), (0x2D, 0x0040), (0x2E, 0x0200), (0x30, 0x6C88),
    (0x31, 0x0088), (0x32, 0x4C48), (0x33, 0x44C8), (0x34, 0x20C8), (0x35, 0x64C0), (0x36, 0x6CC0),
    (0x37, 0x4088), (0x38, 0x6CC8), (0x39, 0x64C8), (0x3A, 0x0004), (0x3D, 0x4400), (0x41, 0x68C8),
    (0x42, 0x2CC0), (0x43, 0x6C00) ]

/-- The entries of R94 in its third column. -/
def r94Letters : List LutRow :=
  [ (0x44, 0x0CC8), (0x45, 0x6C40), (0x46, 0x6840), (0x48, 0x28C8), (0x4A, 0x4C88), (0x4C, 0x2C00),
    (0x50, 0x6848), (0x55, 0x2C88), (0x59, 0x24C8), (0x68, 0x28C0), (0x6E, 0x08C0), (0x6F, 0x0CC0),
    (0x72, 0x0840), (0x74, 0x2C40), (0x75, 0x0C80), (0x20, 0x0000) ]

/-- The 52 entries of `40_segment_encoder.md` R94. -/
def r94Rows : List LutRow := r94Integers ++ r94Middle ++ r94Letters

/-- `c` is one of the 52 keys of `40_segment_encoder.md` R94. -/
def isKey (c : Nat) : Bool := r94Rows.any fun row => row.1 == c

/-! ### Frames, bursts and the shape of a trace -/

/-- One frame: the L1 events of one TRANSMIT (`30_encoding.md` R66, `44_transceiver.md` R164). -/
def frame (w : Word) : List Event :=
  [.latchLow, .shiftOut8 (BitVec.ofNat 8 (w.toNat / 256)), .shiftOut8 (BitVec.ofNat 8 (w.toNat % 256)), .latchHigh]

/-- One burst: the L1 events of one REFRESH (`30_encoding.md` R67). -/
def burst (b : DigitBuffer) : List Event := frame b.w0 ++ frame b.w1 ++ frame b.w2 ++ frame b.w3

/-- The all-zero buffer (`10_state.md` R24). -/
def zeroBuffer : DigitBuffer := { w0 := 0x0000, w1 := 0x0000, w2 := 0x0000, w3 := 0x0000 }

/-- The three Configure events of a SETUP, in any order (`41_controller_basic.md` R112). -/
def IsConfiguration (es : List Event) : Prop :=
  es.Perm [.configure .data, .configure .latch, .configure .clock]

/-- Every trace is a sequence of bursts, each SETUP's being an all-zero burst after its three Configure events
(`44_transceiver.md` R165). -/
inductive TraceShape : List Event → Prop where
  | empty : TraceShape []
  | refresh (es : List Event) (b : DigitBuffer) : TraceShape es → TraceShape (es ++ burst b)
  | setup (es cs : List Event) : TraceShape es → IsConfiguration cs → TraceShape (es ++ cs ++ burst zeroBuffer)

/-- The levels presented on DATA, in order, by a list of line writes (`44_transceiver.md` R168). -/
def dataLevels (ws : List LineWrite) : List Bool :=
  ws.filterMap fun w => if w.line = .data then some w.level else none

/-- The shift-out bytes of a list of events, in order. -/
def shiftedBytes (es : List Event) : List Byte :=
  es.filterMap fun e => match e with
    | .shiftOut8 b => some b
    | .configure _ => none
    | .latchLow => none
    | .latchHigh => none

/-! ### The invariant of the machine -/

/-- Each word has no digit-select flag or exactly its own (`10_state.md` R34). -/
def SelectOk (b : DigitBuffer) : Prop :=
  ∀ k : Fin 4, b.get k &&& 0x9030 = 0 ∨ b.get k &&& 0x9030 = dsel k

/-- CFG and the line levels, as the trace so far determines them: a Configure event marks the lines configured, and line
writes count from then on (`10_state.md` R26, R27, `44_transceiver.md` R171). -/
def replayEvent (c : Bool × Lines) (e : Event) : Bool × Lines :=
  match e with
  | .configure _ => (true, c.2)
  | .latchLow => (c.1, if c.1 then e.lineWrites.foldl Lines.write c.2 else c.2)
  | .shiftOut8 _ => (c.1, if c.1 then e.lineWrites.foldl Lines.write c.2 else c.2)
  | .latchHigh => (c.1, if c.1 then e.lineWrites.foldl Lines.write c.2 else c.2)

/-- The replay of a whole trace from construction. -/
def replay (es : List Event) : Bool × Lines :=
  es.foldl replayEvent (false, { data := none, clock := none, latch := none })

/-- Between operations: no line has been driven before SETUP; from then on LATCH is high, CLOCK is low and DATA has a level
(`10_state.md` R27, `44_transceiver.md` R167). -/
def LinesAtRest (cfg : Bool) (ls : Lines) : Prop :=
  (cfg = false → ls.data = none ∧ ls.clock = none ∧ ls.latch = none) ∧
  (cfg = true → ls.data ≠ none ∧ ls.clock = some false ∧ ls.latch = some true)

/-- The invariant of one driver instance. -/
structure MachineInv (s : State) : Prop where
  select : SelectOk s.buf
  pins : pinsDistinct s.pins = true
  shape : TraceShape s.trace
  replayed : replay s.trace = (s.cfg, s.lines)
  rest : LinesAtRest s.cfg s.lines

/-! ### Runs -/

/-- A sequence of operations, each issued after the one before has returned (`20_memory.md` R49). -/
def runOps : List Instr → State → Host.Outcome State Fault Refusal
  | [], s => .next s
  | i :: is, s =>
    match exec i s with
    | .next t => runOps is t
    | .fault f => .fault f
    | .refused r => .refused r

/-- The states the host can bring an instance with pins `p` to: it constructs it, issues operations in their abstract
form, and sends bytes and lets the block step. -/
inductive Reachable (p : PinConfig) : State → Prop where
  | constructed (s : State) : construct p = .next s → Reachable p s
  | issued (s t : State) (i : Instr) : Reachable p s → exec i s = .next t → Reachable p t
  | sent (s : State) (bytes : List Byte) : Reachable p s → Reachable p (s.setInput bytes)
  | stepped (s t : State) : Reachable p s → step s = .next t → Reachable p t

/-! ### The text walk, in closed form -/

/-- The code of the point (`43_formatter_text.md` R145). -/
def isPoint (c : Byte) : Bool := c == 0x2E

/-- The cursor when the walk stands before position `p`: the number of characters before it that are not '.'
(`43_formatter_text.md` R145). -/
def cursorAt (text : List Byte) (p : Nat) : Nat := ((text.take p).filter fun c => !isPoint c).length

/-- The walk looks at position `p`: input is left and the cursor is below 4 (`43_formatter_text.md` R145). -/
def walkReaches (text : List Byte) (p : Nat) : Bool := p < text.length && cursorAt text p < 4

/-- What the character at a position that the walk reaches puts into word `k`: a point puts DP into the word before the
cursor, or word 0; any other character puts its encoder result into the word at the cursor. -/
def contribution (text : List Byte) (k p : Nat) : Word :=
  let c := text.getD p 0x00
  if isPoint c then (if max ((cursorAt text p : Int) - 1) 0 = (k : Int) then 0x0200 else 0x0000)
  else if cursorAt text p = k then lut c.toNat else 0x0000

/-- Word `k` after DISPLAY_TEXT: its digit-select flag with the contribution of every position the walk reaches. -/
def textWord (text : List Byte) (k : Fin 4) : Word :=
  (((List.range text.length).filter (walkReaches text)).map (contribution text k.val)).foldl (· ||| ·) (dsel k)

/-- The walk reaches a code 0x00 (`43_formatter_text.md` R152). -/
def reachesNul (text : List Byte) : Bool :=
  (List.range text.length).any fun p => walkReaches text p && text.getD p 0x00 == 0x00

end Sys2Proof.Machine
end

