-- ==== Sys2Proof/Certificates/Slice0/Obligations.lean ====
section
/-! DEFINITION. The statements for the provers. Each docstring says what it states and where in the spec that stands; the
clauses that rest on a decision of the spec or of the model name it. -/

open Sys2Proof Sys2Proof.Machine

/-- For every pin configuration with pairwise distinct identifiers, construction answers a state whose four words are 0,
whose pins are the ones supplied, whose CFG is false, whose lines have all never been driven and whose trace is empty.
(R210, R24, 70_reset_and_hazards.md section 1, 10_state.md section 10.) -/
def Obligations.ConstructionStartsInvisible : Prop :=
  ∀ p : PinConfig, p.data ≠ p.latch → p.data ≠ p.clock → p.latch ≠ p.clock →
    ∃ t, construct p = .next t ∧ (∀ k, t.buf.get k = 0x0000) ∧ t.pins = p ∧ t.cfg = false ∧
      (∀ l, t.lines.get l = none) ∧ t.trace = []

/-- If any two of the three identifiers are equal, construction is refused as pinsNotDistinct (the spec's DESIGN CHOICE
D13, log 18). (10_state.md section 5 (R25), 92_eei_decisions.md D13.) -/
def Obligations.EqualPinsAreRefused : Prop :=
  ∀ p : PinConfig, (p.data = p.latch ∨ p.data = p.clock ∨ p.latch = p.clock) →
    construct p = .refused .pinsNotDistinct

/-- The state after reset is what constructing an instance with the model's own three identifiers (DESIGN CHOICE, log 3)
answers, and it meets the machine invariant. The invariant rests on choices of the spec: CLOCK low after SETUP on the
clock pulse (D7, PRESUMED, log 9), no level before SETUP on D11 (DESIGN CHOICE, log 11), whole bursts in the trace on
TRANSMIT being internal (D17, DESIGN CHOICE, log 19). (70_reset_and_hazards.md section 1, 10_state.md section 10,
92_eei_decisions.md D7, 92_eei_decisions.md D11, 92_eei_decisions.md D17.) -/
def Obligations.ResetMeetsTheMachineInvariant : Prop :=
  construct Config.pins = .next State.reset ∧ MachineInv State.reset

/-- For every character code and state, ENCODE completes with the table entry as its result and leaves the buffer, the
pins, CFG, the lines, the trace and the input as they were. The worked example: '8' and the integer 8 both give
0x6CC8. That '8' is the code 0x38 is ASCII, PRESUMED by the spec (D4, G1; log 6), not fixed by R90. (R90,
40_segment_encoder.md section 1, 92_eei_decisions.md D4, 93_implementation_defined.md G1.) -/
def Obligations.EncodeReturnsTheTableEntry : Prop :=
  (∀ (c : Byte) (s : State), ∃ t, exec (.encode c) s = .next t ∧ t.result = some (lut c.toNat) ∧
      t.buf = s.buf ∧ t.pins = s.pins ∧ t.cfg = s.cfg ∧ t.lines = s.lines ∧ t.trace = s.trace ∧ t.input = s.input) ∧
  (∀ s : State, ∃ t u, exec (.encode 0x38) s = .next t ∧ t.result = some 0x6CC8 ∧
      exec (.encode 0x08) s = .next u ∧ u.result = some 0x6CC8)

/-- The table, which the model writes from the segment letters of R91, has every one of the 52 values of R94, reads 0 at
every natural number that is no key, and has 51 non-zero entries among the codes 0 to 255. The character codes are
ASCII, PRESUMED by the spec (D4, G1; log 6), not fixed by the rules cited. (R94, R91, 40_segment_encoder.md section 3,
92_eei_decisions.md D4, 93_implementation_defined.md G1.) -/
def Obligations.EncoderTableEntries : Prop :=
  (∀ row ∈ r94Rows, lut row.1 = row.2) ∧ r94Rows.length = 52 ∧
  (∀ c : Nat, isKey c = false → lut c = 0x0000) ∧
  ((List.range 256).filter fun c => lut c != 0x0000).length = 51

/-- For k = 0..15 the entry of the integer k is that of the character '0'..'9' or 'A'..'F', so that ENCODE of the one is
ENCODE of the other in every state; and no two of the 52 keys are the same code. The characters' codes, and with them
that no key collides, are ASCII, PRESUMED by the spec (D4, G1; log 6), not fixed by the source's dual-key sentence.
(R92, 40_segment_encoder.md section 2, 92_eei_decisions.md D4, 93_implementation_defined.md G1.) -/
def Obligations.EncoderIsDualKeyed : Prop :=
  (∀ k : Nat, k < 16 → lut k = lut (digitCode k).toNat) ∧
  (∀ (k : Nat) (s : State), k < 16 → exec (.encode (BitVec.ofNat 8 k)) s = exec (.encode (digitCode k)) s) ∧
  (r94Rows.map Prod.fst).Nodup

/-- Every natural number that is none of the 52 keys reads 0x0000, which is also the entry of the space; ENCODE of such a
code completes, returns 0x0000 and changes nothing else. Which numbers are the keys, and 0x20 for the space, are
ASCII, PRESUMED by the spec (D4, G1; log 6), not fixed by R93. (R93, 40_segment_encoder.md section 2,
92_eei_decisions.md D4, 93_implementation_defined.md G1.) -/
def Obligations.UnlistedCodesAreBlank : Prop :=
  (∀ c : Nat, isKey c = false → lut c = 0x0000 ∧ lut c = lut 0x20) ∧
  (∀ (c : Byte) (s : State), isKey c.toNat = false → ∃ t, exec (.encode c) s = .next t ∧ t.result = some 0x0000 ∧
      t.buf = s.buf ∧ t.pins = s.pins ∧ t.cfg = s.cfg ∧ t.lines = s.lines ∧ t.trace = s.trace ∧ t.input = s.input)

/-- For every natural number c, LUT[c] has no digit-select bit and no unused bit, lies within 0x6ECC, and within MASK
without the colon bit unless c is ':', whose entry is the colon bit. That ':' is the code 0x3A is ASCII, PRESUMED by
the spec (D4, G1; log 6), not fixed by R95 and R96; the MASK named is 0x6FCB (D6, DESIGN CHOICE, log 7). (R96, R95,
40_segment_encoder.md section 4, R94, 92_eei_decisions.md D4, 93_implementation_defined.md G1, 92_eei_decisions.md
D6.) -/
def Obligations.EncoderResultsAreConfined : Prop :=
  (∀ c : Nat, lut c &&& 0x9030 = 0 ∧ lut c &&& 0x0103 = 0 ∧ lut c &&& ~~~0x6ECC = 0 ∧
      (c ≠ 0x3A → lut c &&& 0x0004 = 0 ∧ lut c &&& ~~~0x6FCB = 0)) ∧
  lut 0x3A = 0x0004

/-- CLEAR completes from every state with all four words 0 and every other part of the state unchanged; this differs from
DISPLAY_RAW of four zero masks, which leaves the select flags 0x8000 0x1000 0x0010 0x0020. (R110.) -/
def Obligations.ClearZeroesTheBuffer : Prop :=
  ∀ s : State,
    (∃ t, exec .clear s = .next t ∧ (∀ k, t.buf.get k = 0x0000) ∧ OnlyBufferWritten s t) ∧
    (∃ u, exec (.displayRaw 0x0000 0x0000 0x0000 0x0000 false) s = .next u ∧
      bufferWords u.buf = [0x8000, 0x1000, 0x0010, 0x0020])

/-- CLEAR answers a state that a second CLEAR leaves exactly as it is, trace included, and it answers the same state
whatever the buffer held before. (R111, 41_controller_basic.md section 1.) -/
def Obligations.ClearTwiceIsClearOnce : Prop :=
  ∀ s : State, ∃ t, exec .clear s = .next t ∧ exec .clear t = .next t ∧ ∀ b, exec .clear (s.setBuf b) = .next t

/-- From every state SETUP completes with all words 0, CFG true, LATCH high, CLOCK low and DATA low (CLOCK's level rests
on the clock pulse decision D7, PRESUMED, log 9), having emitted the three Configure events in some order and then an
all-zero burst, 19 events; pins and input are unchanged and nothing is returned. (R112, R213, 41_controller_basic.md
section 2, 92_eei_decisions.md D7.) -/
def Obligations.SetupInitialises : Prop :=
  ∀ s : State, ∃ t cs, exec .setup s = .next t ∧ (∀ k, t.buf.get k = 0x0000) ∧ t.cfg = true ∧
    t.lines.get .latch = some true ∧ t.lines.get .clock = some false ∧ t.lines.get .data = some false ∧
    IsConfiguration cs ∧ t.trace = s.trace ++ cs ++ burst zeroBuffer ∧ (cs ++ burst zeroBuffer).length = 19 ∧
    shiftedBytes (cs ++ burst zeroBuffer) = List.replicate 8 0x00 ∧
    t.pins = s.pins ∧ t.input = s.input ∧ t.result = none

/-- SETUP under any order of the three Configure events gives the state SETUP gives under the model's order (the spec's
parameter CONFIGURE_ORDER, DESIGN CHOICE, log 10), but for the order of those three events in the trace. (R112,
92_eei_decisions.md D18, 93_implementation_defined.md U10.) -/
def Obligations.SetupOrderShowsOnlyInTheTrace : Prop :=
  ∀ (order : List Line) (s : State), order.Perm [.data, .latch, .clock] →
    { setupWith order s with trace := [] } = { setupWith Config.configureOrder s with trace := [] } ∧
    (setupWith order s).trace = s.trace ++ order.map Event.configure ++ burst zeroBuffer

/-- SETUP after SETUP answers a state equal to the first one's in every field but the trace, to which another three
Configure events and another all-zero burst have been added. (R113, R213, 41_controller_basic.md section 2.) -/
def Obligations.SetupIsIdempotentInState : Prop :=
  ∀ s : State, ∃ t u cs, exec .setup s = .next t ∧ exec .setup t = .next u ∧
    u.buf = t.buf ∧ u.pins = t.pins ∧ u.cfg = t.cfg ∧ u.lines = t.lines ∧ u.result = t.result ∧ u.input = t.input ∧
    IsConfiguration cs ∧ u.trace = t.trace ++ cs ++ burst zeroBuffer

/-- SETUP answers what the operations CLEAR and then REFRESH answer from the state in which the Configure events have been
emitted and CFG set. The order of the Configure events is the spec's DESIGN CHOICE D18 (log 10). (R78, R212,
30_encoding.md section 6, 92_eei_decisions.md D18.) -/
def Obligations.SetupIsConfigureThenClearThenRefresh : Prop :=
  ∀ s : State,
    exec .setup s = runOps [.clear, .refresh] ((configureLines Config.configureOrder s).setCfg true)

/-- For all masks, colon operand and state DISPLAY_RAW completes with the four composed words (MASK 0x6FCB is the spec's
DESIGN CHOICE D6, log 7) and everything but the buffer unchanged. The worked example of R114 is included. (R114, R63,
41_controller_basic.md section 3, 92_eei_decisions.md D6.) -/
def Obligations.DisplayRawComposesWords : Prop :=
  (∀ (m1 m2 m3 m4 : Word) (c : Bool) (s : State), ∃ t, exec (.displayRaw m1 m2 m3 m4 c) s = .next t ∧
      t.buf.get 0 = 0x8000 ||| (0x6FCB &&& m1) ||| (if c then 0x0004 else 0x0000) ∧
      t.buf.get 1 = 0x1000 ||| (0x6FCB &&& m2) ||| (if c then 0x0004 else 0x0000) ∧
      t.buf.get 2 = 0x0010 ||| (0x6FCB &&& m3) ||| (if c then 0x0004 else 0x0000) ∧
      t.buf.get 3 = 0x0020 ||| (0x6FCB &&& m4) ||| (if c then 0x0004 else 0x0000) ∧ OnlyBufferWritten s t) ∧
  (∀ s : State, ∃ t, exec (.displayRaw 0x0088 0x4C48 0x44C8 0x20C8 true) s = .next t ∧
      bufferWords t.buf = [0x808C, 0x5C4C, 0x44DC, 0x20EC])

/-- For every value of MASK without control bits (both readings of D6 are such), a raw word has exactly its own
digit-select flag, its colon bit equals the colon operand, and every bit outside DSEL[k], MASK and CC is zero; and
DISPLAY_RAW answers the same for masks that differ in control bits only. (R115, R62, 41_controller_basic.md section 3,
92_eei_decisions.md D6.) -/
def Obligations.RawMasksCannotForgeControlBits : Prop :=
  (∀ (maskValue : Word) (k : Fin 4) (m : Word) (c : Bool), maskValue &&& 0x9034 = 0 →
      rawWord maskValue k m c &&& 0x9030 = dsel k ∧
      rawWord maskValue k m c &&& 0x0004 = (if c then 0x0004 else 0x0000) ∧
      rawWord maskValue k m c &&& ~~~(dsel k ||| maskValue ||| 0x0004) = 0) ∧
  (∀ (m1 m2 m3 m4 x1 x2 x3 x4 : Word) (c : Bool) (s : State),
      exec (.displayRaw (m1 ^^^ (x1 &&& 0x9034)) (m2 ^^^ (x2 &&& 0x9034)) (m3 ^^^ (x3 &&& 0x9034))
        (m4 ^^^ (x4 &&& 0x9034)) c) s = exec (.displayRaw m1 m2 m3 m4 c) s)

/-- COLON enabled completes from every state: bit 2 of each of the four words becomes the operand, every other bit of
every word and everything but the buffer is unchanged. The worked example of R116 is included. (R116.) -/
def Obligations.ColonChangesOnlyTheColonBit : Prop :=
  (∀ (e : Bool) (s : State), ∃ t, exec (.colon e) s = .next t ∧ OnlyBufferWritten s t ∧
      ∀ (k : Fin 4) (j : Nat), j < 16 →
        (t.buf.get k).getLsbD j = if j = 2 then e else (s.buf.get k).getLsbD j) ∧
  (∀ s : State, bufferWords s.buf = [0x8088, 0x5C48, 0x44D8, 0x20E8] →
      ∃ t u, exec (.colon true) s = .next t ∧ bufferWords t.buf = [0x808C, 0x5C4C, 0x44DC, 0x20EC] ∧
        exec (.colon false) t = .next u ∧ bufferWords u.buf = [0x8088, 0x5C48, 0x44D8, 0x20E8])

/-- COLON e' after COLON e answers what COLON e' alone answers (so COLON is idempotent), and after CLEAR COLON gives the
four words 0x0004. (R117, 41_controller_basic.md section 4.) -/
def Obligations.LaterColonWins : Prop :=
  (∀ (e e' : Bool) (s : State), ∃ t, exec (.colon e) s = .next t ∧ exec (.colon e') t = exec (.colon e') s) ∧
  (∀ s : State, ∃ t, runOps [.clear, .colon true] s = .next t ∧
      bufferWords t.buf = [0x0004, 0x0004, 0x0004, 0x0004])

/-- For all bytes hi, lo and every state DISPLAY_DEC completes; each value puts its tens and units glyphs, or the glyph of
'E' twice when it is above 99, under the digit-select flags of its two words, each word assigned whole; everything but
the buffer is unchanged. The worked example of R131 is included. That 'E' is the code 0x45 is ASCII, PRESUMED by the
spec (D4, G1; log 6), and that a byte of 128 to 255 is above 99 is its unsigned reading (D16, DESIGN CHOICE, log 20);
R131 fixes neither. (R131, 42_formatter_numeric.md section 2, 92_eei_decisions.md D4, 93_implementation_defined.md G1,
92_eei_decisions.md D16.) -/
def Obligations.DisplayDecRendersTwoDecimals : Prop :=
  (∀ (hi lo : Byte) (s : State), ∃ t, exec (.displayDec hi lo) s = .next t ∧ OnlyBufferWritten s t ∧
      (if hi.toNat > 99 then
        t.buf.get 0 = 0x8000 ||| lut 0x45 ∧ t.buf.get 1 = 0x1000 ||| lut 0x45
      else
        t.buf.get 0 = 0x8000 ||| lut (hi.toNat / 10) ∧ t.buf.get 1 = 0x1000 ||| lut (hi.toNat % 10)) ∧
      (if lo.toNat > 99 then
        t.buf.get 2 = 0x0010 ||| lut 0x45 ∧ t.buf.get 3 = 0x0020 ||| lut 0x45
      else
        t.buf.get 2 = 0x0010 ||| lut (lo.toNat / 10) ∧ t.buf.get 3 = 0x0020 ||| lut (lo.toNat % 10))) ∧
  (∀ s : State, ∃ t, exec (.displayDec 23 59) s = .next t ∧ bufferWords t.buf = [0xCC48, 0x54C8, 0x64D0, 0x64E8])

/-- For all hi, lo DISPLAY_DEC completes with everything but the buffer unchanged; hi above 99 gives 0xEC40 0x7C40 in
words 0 and 1 and lo above 99 gives 0x6C50 0x6C60 in words 2 and 3, and neither value has an influence on the other's
words. The boundary is strict, shown by the four examples of R132. (R132.) -/
def Obligations.DecimalSentinel : Prop :=
  (∀ (hi lo : Byte) (s : State), ∃ t u v, exec (.displayDec hi lo) s = .next t ∧ OnlyBufferWritten s t ∧
      exec (.displayDec hi 0) s = .next u ∧ t.buf.get 0 = u.buf.get 0 ∧ t.buf.get 1 = u.buf.get 1 ∧
      exec (.displayDec 0 lo) s = .next v ∧ t.buf.get 2 = v.buf.get 2 ∧ t.buf.get 3 = v.buf.get 3 ∧
      (99 < hi.toNat → t.buf.get 0 = 0xEC40 ∧ t.buf.get 1 = 0x7C40) ∧
      (99 < lo.toNat → t.buf.get 2 = 0x6C50 ∧ t.buf.get 3 = 0x6C60)) ∧
  (∀ s : State, ∃ t u v w,
      exec (.displayDec 99 0) s = .next t ∧ bufferWords t.buf = [0xE4C8, 0x74C8, 0x6C98, 0x6CA8] ∧
      exec (.displayDec 100 0) s = .next u ∧ bufferWords u.buf = [0xEC40, 0x7C40, 0x6C98, 0x6CA8] ∧
      exec (.displayDec 99 100) s = .next v ∧ bufferWords v.buf = [0xE4C8, 0x74C8, 0x6C50, 0x6C60] ∧
      exec (.displayDec 255 255) s = .next w ∧ bufferWords w.buf = [0xEC40, 0x7C40, 0x6C50, 0x6C60])

/-- DISPLAY_DEC completes, and a value below 10 puts the glyph of '0' in its first word. (R137, 42_formatter_numeric.md
section 2.) -/
def Obligations.LeadingZerosAreShown : Prop :=
  ∀ (hi lo : Byte) (s : State), ∃ t, exec (.displayDec hi lo) s = .next t ∧
    (hi.toNat < 10 → t.buf.get 0 = 0xEC88) ∧ (lo.toNat < 10 → t.buf.get 2 = 0x6C98)

/-- For all bytes hi, lo and every state DISPLAY_HEX completes; the four words are the digit-select flags with the glyphs
of the high and low nibbles, each word assigned whole; everything but the buffer is unchanged. The source's own
example ABCD is included. (R134.) -/
def Obligations.DisplayHexRendersNibbles : Prop :=
  (∀ (hi lo : Byte) (s : State), ∃ t, exec (.displayHex hi lo) s = .next t ∧ OnlyBufferWritten s t ∧
      t.buf.get 0 = 0x8000 ||| lut (hi.toNat / 16) ∧ t.buf.get 1 = 0x1000 ||| lut (hi.toNat % 16) ∧
      t.buf.get 2 = 0x0010 ||| lut (lo.toNat / 16) ∧ t.buf.get 3 = 0x0020 ||| lut (lo.toNat % 16)) ∧
  (∀ s : State, ∃ t, exec (.displayHex 0xAB 0xCD) s = .next t ∧
      bufferWords t.buf = [0xE8C8, 0x3CC0, 0x6C10, 0x0CE8])

/-- For values up to 99 DISPLAY_DEC answers what DISPLAY_HEX answers for the bytes with the same digits, and for all bytes
DISPLAY_HEX answers what DISPLAY_TEXT answers for the four characters of the nibbles. The codes of the sixteen
characters are ASCII, PRESUMED by the spec (D4, G1; log 6), not fixed by R139 and R135; bytes are unsigned (D16,
DESIGN CHOICE, log 20). (R139, R135, 42_formatter_numeric.md section 4, 92_eei_decisions.md D4,
93_implementation_defined.md G1, 92_eei_decisions.md D16.) -/
def Obligations.DecimalHexAndTextAgree : Prop :=
  (∀ (hi lo : Byte) (s : State), hi.toNat ≤ 99 → lo.toNat ≤ 99 →
      exec (.displayDec hi lo) s =
        exec (.displayHex (BitVec.ofNat 8 (16 * (hi.toNat / 10) + hi.toNat % 10))
          (BitVec.ofNat 8 (16 * (lo.toNat / 10) + lo.toNat % 10))) s) ∧
  (∀ (hi lo : Byte) (s : State),
      exec (.displayHex hi lo) s =
        exec (.displayText [digitCode (hi.toNat / 16), digitCode (hi.toNat % 16), digitCode (lo.toNat / 16),
          digitCode (lo.toNat % 16)]) s)

/-- For every text in which the walk reaches no code 0x00, of any length, and every state, DISPLAY_TEXT completes with
everything but the buffer unchanged and word k equal to its digit-select flag ORed with what every position the walk
reaches contributes: a '.' the decimal point to word max(cursor - 1, 0), any other character its encoder result to the
word at the cursor. The source's example -3.14 is included. (The case of 0x00 is ReachedNulIsRefused.) The codes of
'.' and of the example are ASCII, PRESUMED by the spec (D4, G1; log 6), not fixed by the rules cited; max(cursor - 1,
0) is over the integers (D21, log 20). (R145, R146, R153, 43_formatter_text.md section 1, 92_eei_decisions.md D9,
92_eei_decisions.md D4, 93_implementation_defined.md G1, 92_eei_decisions.md D21.) -/
def Obligations.DisplayTextRendersText : Prop :=
  (∀ (text : List Byte) (s : State), reachesNul text = false →
      ∃ t, exec (.displayText text) s = .next t ∧ OnlyBufferWritten s t ∧ ∀ k, t.buf.get k = textWord text k) ∧
  (∀ s : State, ∃ t, exec (.displayText [0x2D, 0x33, 0x2E, 0x31, 0x34]) s = .next t ∧
      bufferWords t.buf = [0x8040, 0x56C8, 0x0098, 0x20E8])

/-- DISPLAY_TEXT of a text in which the walk reaches a code 0x00 with the cursor below 4 is refused in every state (the
spec's DESIGN CHOICE D9, log 8). That '.' is the code 0x2E is ASCII, PRESUMED by the spec (D4, G1; log 6), not fixed
by the rules cited. (R152, 43_formatter_text.md section 4, 92_eei_decisions.md D9, 92_eei_decisions.md D4.) -/
def Obligations.ReachedNulIsRefused : Prop :=
  ∀ (text : List Byte) (s : State), reachesNul text = true →
    exec (.displayText text) s = .refused .textNulReached

/-- Under TEXT_NUL_POLICY = terminate a text does what its part before the first 0x00 does; under ordinary every text
completes with the closed-form words, 0x00 being the integer key 0; and under each policy a text without 0x00 does the
same. The policies are the spec's parameter (D9, DESIGN CHOICE, log 8). That '.' is the code 0x2E is ASCII, PRESUMED
by the spec (D4, G1; log 6), not fixed by the rules cited. (R152, 43_formatter_text.md section 4, 92_eei_decisions.md
D9, 92_eei_decisions.md D4.) -/
def Obligations.OtherNulPolicies : Prop :=
  (∀ (text : List Byte) (s : State),
      displayTextWith .terminate text s = displayTextWith .refuse (text.takeWhile fun c => c != 0x00) s) ∧
  (∀ (text : List Byte) (s : State), ∃ t, displayTextWith .ordinary text s = .next t ∧ OnlyBufferWritten s t ∧
      ∀ k, t.buf.get k = textWord text k) ∧
  (∀ (policy : TextNulPolicy) (text : List Byte) (s : State), 0x00 ∉ text →
      displayTextWith policy text s = displayTextWith .refuse text s)

/-- Once four characters other than '.' have gone by, whatever follows, a '.' or a 0x00 included, has no effect on
DISPLAY_TEXT; an operation other than DISPLAY_RAW never sets the decimal point of word 3. The texts 1234. and 12345
give the buffer of 1234, and 8.8.8.8. that of 8.8.8.8. The codes of '.' and the digits are ASCII, PRESUMED by the spec
(D4, G1; log 6), not fixed by R147 and R150; that a 0x00 past the fourth digit is no refusal is D9 (DESIGN CHOICE, log
8). (R147, R150, 43_formatter_text.md sections 2 and 3, 92_eei_decisions.md D4, 93_implementation_defined.md G1,
92_eei_decisions.md D9.) -/
def Obligations.TextPastTheFourthDigitIsDropped : Prop :=
  (∀ (text extra : List Byte) (s : State), 4 ≤ cursorAt text text.length →
      exec (.displayText (text ++ extra)) s = exec (.displayText text) s) ∧
  (∀ (i : Instr) (s t : State), exec i s = .next t → (∀ m1 m2 m3 m4 c, i ≠ .displayRaw m1 m2 m3 m4 c) →
      t.buf.get 3 &&& 0x0200 ≠ 0 → s.buf.get 3 &&& 0x0200 ≠ 0) ∧
  (∀ s : State, ∃ t u v w, exec (.displayText [0x31, 0x32, 0x33, 0x34, 0x2E]) s = .next t ∧
      bufferWords t.buf = [0x8088, 0x5C48, 0x44D8, 0x20E8] ∧
      exec (.displayText [0x31, 0x32, 0x33, 0x34, 0x35]) s = .next u ∧ u.buf = t.buf ∧
      exec (.displayText [0x38, 0x2E, 0x38, 0x2E, 0x38, 0x2E, 0x38, 0x2E]) s = .next v ∧
      exec (.displayText [0x38, 0x2E, 0x38, 0x2E, 0x38, 0x2E, 0x38]) s = .next w ∧ v.buf = w.buf)

/-- A text that begins with '.' and another character does what the text with those two exchanged does; alone or before 5
the point lands in word 0: .5 gives 0xE6C0 there, as 5. does. The codes 0x2E and 0x35 are ASCII, PRESUMED by the spec
(D4, G1; log 6), not fixed by R148. (R148, 43_formatter_text.md section 2, 92_eei_decisions.md D4,
93_implementation_defined.md G1.) -/
def Obligations.LeadingPointJoinsTheFirstDigit : Prop :=
  (∀ (c : Byte) (rest : List Byte) (s : State), c ≠ 0x2E →
      exec (.displayText (0x2E :: c :: rest)) s = exec (.displayText (c :: 0x2E :: rest)) s) ∧
  (∀ s : State, ∃ t u v, exec (.displayText [0x2E, 0x35]) s = .next t ∧ t.buf.get 0 = 0xE6C0 ∧
      exec (.displayText [0x35, 0x2E]) s = .next u ∧ u.buf.get 0 = 0xE6C0 ∧
      exec (.displayText [0x2E]) s = .next v ∧ v.buf.get 0 = 0x8200)

/-- DISPLAY_TEXT answers the same for a text with two successive points as for the text with one of them. That '.' is the
code 0x2E is ASCII, PRESUMED by the spec (D4, G1; log 6), not fixed by the rules cited. (R154, 43_formatter_text.md
section 2, 92_eei_decisions.md D4.) -/
def Obligations.RepeatedPointsAddNothing : Prop :=
  ∀ (before after : List Byte) (s : State),
    exec (.displayText (before ++ 0x2E :: 0x2E :: after)) s = exec (.displayText (before ++ 0x2E :: after)) s

/-- A text in which no 0x00 is reached completes, and every word from the number of its characters other than '.' on, word
0 apart, holds only its digit-select flag; the empty text gives 0x8000 0x1000 0x0010 0x0020. That '.' is the code 0x2E
is ASCII, PRESUMED by the spec (D4, G1; log 6), not fixed by the rules cited. (R149, 43_formatter_text.md section 3,
92_eei_decisions.md D4.) -/
def Obligations.ShortTextLeavesDigitsBlank : Prop :=
  (∀ (text : List Byte) (s : State), reachesNul text = false → ∃ t, exec (.displayText text) s = .next t ∧
      ∀ k : Fin 4, k ≠ 0 → cursorAt text text.length ≤ k.val → t.buf.get k = dsel k) ∧
  (∀ s : State, ∃ t, exec (.displayText []) s = .next t ∧ bufferWords t.buf = [0x8000, 0x1000, 0x0010, 0x0020])

/-- When a display operation completes every word has exactly its own digit-select flag; unless it was DISPLAY_RAW the
unused bits are zero; after DISPLAY_DEC and DISPLAY_HEX the colon bit and the decimal point are zero; after
DISPLAY_TEXT the colon bit is set in a word only where the walk put a ':'. The codes of ':' (0x3A) and '.' are ASCII,
PRESUMED by the spec (D4, G1; log 6), not fixed by the rules cited. (R34, R136, R155, R64, 10_state.md section 2,
92_eei_decisions.md D4, 93_implementation_defined.md G1.) -/
def Obligations.DisplayedWordsAddressTheirDigit : Prop :=
  ∀ (i : Instr) (s t : State), isDisplay i = true → exec i s = .next t → ∀ k : Fin 4,
    t.buf.get k &&& 0x9030 = dsel k ∧
    ((∀ m1 m2 m3 m4 c, i ≠ .displayRaw m1 m2 m3 m4 c) → t.buf.get k &&& 0x0103 = 0) ∧
    (∀ hi lo, i = .displayDec hi lo ∨ i = .displayHex hi lo → t.buf.get k &&& 0x0204 = 0) ∧
    (∀ text, i = .displayText text → t.buf.get k &&& 0x0004 ≠ 0 →
      ∃ p, walkReaches text p = true ∧ text.getD p 0x00 = 0x3A ∧ cursorAt text p = k.val)

/-- CLEAR, SETUP and the four display operations answer the same whatever the buffer held, and the same with a COLON
issued just before. (R45, R117, R216, R172, 20_memory.md section 4.) -/
def Obligations.WholeAssignmentsForgetTheBuffer : Prop :=
  (∀ (i : Instr) (s : State) (b : DigitBuffer), assignsWholeBuffer i = true → exec i (s.setBuf b) = exec i s) ∧
  (∀ (i : Instr) (e : Bool) (s : State), assignsWholeBuffer i = true → runOps [.colon e, i] s = runOps [i] s)

/-- From every state REFRESH completes; it adds the four frames of the words 0, 1, 2, 3 to the trace, each latch low, high
byte, low byte, latch high; if the lines are configured it leaves LATCH high, CLOCK low and DATA at bit 0 of word 3,
and if not it leaves them as they were; buffer, pins, CFG and input are unchanged and nothing is returned. The worked
example of R160 is included. CLOCK low rests on the clock pulse (D7, PRESUMED, log 9), and lines that stay as they
were while CFG is false on D11 (DESIGN CHOICE, log 11); R160 says neither. (R160, R167, R171, 44_transceiver.md
section 1, 92_eei_decisions.md D7, 92_eei_decisions.md D11.) -/
def Obligations.RefreshSendsTheBuffer : Prop :=
  (∀ s : State, ∃ t, exec .refresh s = .next t ∧
      t.trace = s.trace ++ (frame (s.buf.get 0) ++ frame (s.buf.get 1) ++ frame (s.buf.get 2) ++ frame (s.buf.get 3)) ∧
      (s.cfg = true → t.lines.get .latch = some true ∧ t.lines.get .clock = some false ∧
        t.lines.get .data = some ((s.buf.get 3).getLsbD 0)) ∧
      (s.cfg = false → t.lines = s.lines) ∧
      t.buf = s.buf ∧ t.pins = s.pins ∧ t.cfg = s.cfg ∧ t.input = s.input ∧ t.result = none) ∧
  (∀ s : State, bufferWords s.buf = [0x8088, 0x5C48, 0x44D8, 0x20E8] → ∃ t, exec .refresh s = .next t ∧
      t.trace = s.trace ++ [.latchLow, .shiftOut8 0x80, .shiftOut8 0x88, .latchHigh, .latchLow, .shiftOut8 0x5C,
        .shiftOut8 0x48, .latchHigh, .latchLow, .shiftOut8 0x44, .shiftOut8 0xD8, .latchHigh, .latchLow,
        .shiftOut8 0x20, .shiftOut8 0xE8, .latchHigh])

/-- REFRESH completes and adds exactly 16 events, of which 8 are shift-outs: for each digit k in order a latch low, the
high byte and the low byte of its word, a latch high, each at its place 4k to 4k + 3. The order of the bits inside a
shift-out is not said here (WireBitOrder says it). (R67, R164, 44_transceiver.md section 4.) -/
def Obligations.BurstHasFourBrackets : Prop :=
  ∀ s : State, ∃ t es, exec .refresh s = .next t ∧ t.trace = s.trace ++ es ∧ es.length = 16 ∧
    (shiftedBytes es).length = 8 ∧
    ∀ k : Fin 4, es[4 * k.val]? = some .latchLow ∧
      es[4 * k.val + 1]? = some (.shiftOut8 (BitVec.ofNat 8 ((s.buf.get k).toNat / 256))) ∧
      es[4 * k.val + 2]? = some (.shiftOut8 (BitVec.ofNat 8 ((s.buf.get k).toNat % 256))) ∧
      es[4 * k.val + 3]? = some .latchHigh

/-- If REFRESH from two states adds the same events to their traces, the two buffers are equal: the burst carries every
bit of the buffer. (R168, R164, 95_test_vectors.md, properties worth stating, 5.) -/
def Obligations.BurstDeterminesTheBuffer : Prop :=
  ∀ (s s' t t' : State) (es : List Event), exec .refresh s = .next t → exec .refresh s' = .next t' →
    t.trace = s.trace ++ es → t'.trace = s'.trace ++ es → s.buf = s'.buf

/-- REFRESH completes, and the levels its events present on DATA at L0 are, for n = 0..63, bit 15 - (n mod 16) of word n /
16; the burst is 200 line writes (that count rests on the clock pulse decision D7, PRESUMED, log 9). (R168, R42, R166,
R222, 44_transceiver.md section 4, 92_eei_decisions.md D7.) -/
def Obligations.WireBitOrder : Prop :=
  ∀ s : State, ∃ t es, exec .refresh s = .next t ∧ t.trace = s.trace ++ es ∧
    dataLevels (lineTrace es) =
      (List.range 64).map (fun n => ((bufferWords s.buf).getD (n / 16) 0x0000).getLsbD (15 - n % 16)) ∧
    (lineTrace es).length = 200

/-- With the lines configured, whatever the informative receiver of R169 (PRESUMED, log 12; CHAIN_BITS 16, CLOCK_PULSE
low-high-low, D7, PRESUMED, log 9) held before, its CLOCK input not high, its output register equals word k after the
first k + 1 frames of a REFRESH, and both its registers are left at word 3. (44_transceiver.md section 5 (R169),
70_reset_and_hazards.md section 3 (R217), 92_eei_decisions.md D20, 92_eei_decisions.md D7.) -/
def Obligations.ReceiverLatchesEachWord : Prop :=
  ∀ (s : State) (r : Receiver 16), s.cfg = true → r.clock ≠ some true →
    ∃ t es, exec .refresh s = .next t ∧ t.trace = s.trace ++ es ∧
      (∀ k : Fin 4, (r.run (es.take (4 * (k.val + 1)))).out = s.buf.get k) ∧
      (r.run es).sr = s.buf.get 3 ∧ (r.run es).out = s.buf.get 3

/-- When the host's bytes decode to an operation, a step is exec of it in the state from whose input the command has been
taken; with fewer than the two bytes of a header sent no command stands there and the block holds its state (nothing
sent: DEDUCED, log 2; a lone byte: DESIGN CHOICE, log 13). That a step takes one command from the head of the field
input and runs it is the model's DESIGN CHOICE (log 1), which the rules cited do not say; the command encoding is the
spec's own (D3, log 17). (R8, R71, R76, R199, 30_encoding.md section 4, 92_eei_decisions.md D3.) -/
def Obligations.StepRunsTheDecodedCommand : Prop :=
  (∀ (s : State) (i : Instr) (rest : List Byte), decode s.input = .instr i rest →
      step s = exec i (s.setInput rest)) ∧
  (∀ s : State, s.input.length < 2 → step s = .next s)

/-- For every operation with a command word, every operand at every value, and whatever bytes follow, decoding its command
bytes gives the operation and exactly those bytes. The command encoding is the spec's own DESIGN CHOICE (D3, log 17).
(30_encoding.md section 4 (R71, R72), 92_eei_decisions.md D3.) -/
def Obligations.DecodeOfEncodeIsTheOperation : Prop :=
  ∀ (i : Instr) (rest : List Byte), i.wf = true → decode (encode i ++ rest) = .instr i rest

/-- Whenever a byte sequence decodes to an operation with some bytes left over, the operation is well-formed and the
sequence is its command bytes followed by those bytes, so every command has one meaning and one spelling. The command
encoding is the spec's own DESIGN CHOICE (D3, log 17). (30_encoding.md section 4 (R71, R72), 92_eei_decisions.md D3.) -/
def Obligations.DecodedBytesAreTheEncoding : Prop :=
  ∀ (bytes : List Byte) (i : Instr) (rest : List Byte), decode bytes = .instr i rest →
    i.wf = true ∧ bytes = encode i ++ rest

/-- Whatever payload follows, a header is refused as reserved if it is one of those R76 lists, and only then. The command
encoding and its refusals are the spec's own DESIGN CHOICE (D3, D10; log 17), and that a step refuses what stands at
the head of the field input is the model's (log 1). (30_encoding.md section 5 (R76), 92_eei_decisions.md D10,
92_eei_decisions.md D3.) -/
def Obligations.ReservedHeadersAreRefused : Prop :=
  (∀ (op modifier : Byte) (payload : List Byte),
      decode (op :: modifier :: payload) = .reservedHeader ↔ isReserved op modifier = true) ∧
  (∀ (op modifier : Byte) (payload : List Byte) (s : State), isReserved op modifier = true →
      step (s.setInput (op :: modifier :: payload)) = .refused .reservedHeader)

/-- A decoded command takes 2, 4, 10 or 2 + n bytes, as R72 says; a step refuses DISPLAY_RAW with less than 8 payload
bytes, DISPLAY_DEC and DISPLAY_HEX with less than 2, and DISPLAY_TEXT with less than its modifier says; whenever a
step refuses as short, the input is a header that selects a row and a payload shorter than that row demands; a lone
byte, less than a header, is no command yet and the block holds its state (DESIGN CHOICE, log 13). The command
encoding and its refusals are the spec's own DESIGN CHOICE (D3, D10; log 17), and that a step refuses what stands at
the head of the field input is the model's (log 1). (30_encoding.md sections 4 and 5 (R72, R76), 92_eei_decisions.md
D10, 92_eei_decisions.md D3.) -/
def Obligations.ShortCommandsAreRefused : Prop :=
  (∀ (bytes : List Byte) (i : Instr) (rest : List Byte), decode bytes = .instr i rest →
      bytes.length = commandBytes i + rest.length) ∧
  (∀ (s : State) (f : Bool) (payload : List Byte), payload.length < 8 →
      step (s.setInput (0x04 :: (if f then 0x01 else 0x00) :: payload)) = .refused .shortPayload) ∧
  (∀ (s : State) (f : Bool) (payload : List Byte), payload.length < 2 →
      step (s.setInput (0x05 :: (if f then 0x01 else 0x00) :: payload)) = .refused .shortPayload) ∧
  (∀ (s : State) (n : Byte) (payload : List Byte), payload.length < n.toNat →
      step (s.setInput (0x07 :: n :: payload)) = .refused .shortPayload) ∧
  (∀ s : State, step s = .refused .shortPayload → ∃ op modifier payload row, s.input = op :: modifier :: payload ∧
      selectRow (Word.ofBytes op modifier) = some row ∧ 2 + payload.length < row.commandLength modifier) ∧
  (∀ (s : State) (b : Byte), step (s.setInput [b]) = .next (s.setInput [b]))

/-- Nine commands, one a row of the header table, written out byte by byte, decode to their operations: a sanity
statement. The command encoding is the spec's own DESIGN CHOICE (D3, log 17). (30_encoding.md section 4 (R71),
95_test_vectors.md Part 3, 92_eei_decisions.md D3.) -/
def Obligations.CommandWordsOfTheSpecDecode : Prop :=
  decode [0x01, 0x48] = .instr (.encode 0x48) [] ∧
  decode [0x02, 0x00] = .instr .clear [] ∧
  decode [0x03, 0x00] = .instr .setup [] ∧
  decode [0x04, 0x01, 0x28, 0xC8, 0x6E, 0x40, 0x2C, 0x00, 0xF8, 0x7C] =
    .instr (.displayRaw 0x28C8 0x6E40 0x2C00 0xF87C true) [] ∧
  decode [0x05, 0x00, 0x0C, 0x22, 0x06, 0x01] = .instr (.displayDec 12 34) [0x06, 0x01] ∧
  decode [0x05, 0x01, 0xBE, 0xEF] = .instr (.displayHex 0xBE 0xEF) [] ∧
  decode [0x06, 0x01] = .instr (.colon true) [] ∧
  decode [0x07, 0x05, 0x2D, 0x33, 0x2E, 0x31, 0x34] = .instr (.displayText [0x2D, 0x33, 0x2E, 0x31, 0x34]) [] ∧
  decode [0x08, 0x00] = .instr .refresh []

/-- In every state DISPLAY_PAIR with Decimal does what DISPLAY_DEC does and with Hex what DISPLAY_HEX does; raw display
without a colon operand is with false, COLON without an operand is with true; the example of R130, 0x12 0x34 in Hex
and 12 34 in Decimal, gives one buffer. (R77, R78, R130, 42_formatter_numeric.md section 1.) -/
def Obligations.CallFormsNameTheirOperations : Prop :=
  (∀ (hi lo : Byte) (s : State),
      exec (instrOfCall (.displayPair hi lo .decimal)) s = exec (.displayDec hi lo) s ∧
      exec (instrOfCall (.displayPair hi lo .hex)) s = exec (.displayHex hi lo) s) ∧
  (∀ (m1 m2 m3 m4 : Word) (s : State),
      exec (instrOfCall (.displayMasks m1 m2 m3 m4 none)) s = exec (.displayRaw m1 m2 m3 m4 false) s) ∧
  (∀ s : State, exec (instrOfCall (.colon none)) s = exec (.colon true) s) ∧
  (∀ s : State, ∃ t u, exec (instrOfCall (.displayPair 0x12 0x34 .hex)) s = .next t ∧
      exec (instrOfCall (.displayPair 12 34 .decimal)) s = .next u ∧
      bufferWords t.buf = [0x8088, 0x5C48, 0x44D8, 0x20E8] ∧ u.buf = t.buf)

/-- Every operation answers a next state from every state, or it is a DISPLAY_TEXT whose walk reaches a code 0x00 and is
refused as such; there is no other refusal and no fault. That refusal is the spec's DESIGN CHOICE D9 (log 8). That '.'
is the code 0x2E is ASCII, PRESUMED by the spec (D4, G1; log 6), not fixed by the rules cited. (R9, R185, R200,
60_exceptions.md section 1, 92_eei_decisions.md D9, 92_eei_decisions.md D4.) -/
def Obligations.OnlyAReachedNulIsRefused : Prop :=
  ∀ (i : Instr) (s : State), (∃ t, exec i s = .next t) ∨
    (exec i s = .refused .textNulReached ∧ ∃ text, i = .displayText text ∧ reachesNul text = true)

/-- Whatever operation completes, the pins and the input are unchanged; unless it is SETUP or REFRESH nothing is emitted
and CFG and the lines are unchanged; unless it is SETUP CFG is unchanged; ENCODE and REFRESH leave the buffer as it
was; only ENCODE returns a result. (R37, R161, R164, R215, R3, 10_state.md section 9.) -/
def Obligations.OnlySetupAndRefreshReachTheLines : Prop :=
  ∀ (i : Instr) (s t : State), exec i s = .next t →
    t.pins = s.pins ∧ t.input = s.input ∧
    (i ≠ .setup → i ≠ .refresh → t.trace = s.trace ∧ t.lines = s.lines) ∧
    (i ≠ .setup → t.cfg = s.cfg) ∧
    (i = .refresh ∨ (∃ c, i = .encode c) → t.buf = s.buf) ∧
    (t.result ≠ none ↔ ∃ c, i = .encode c)

/-- From every state a step that goes on leaves the pins as they were, keeps CFG true if it was, and only appends to the
trace; CFG becomes true only by SETUP. That a step decodes the field input is the model's DESIGN CHOICE (log 1), that
CFG is set by SETUP alone the spec's (D11, log 11). (R25, R26, R49, 10_state.md section 5, 92_eei_decisions.md D11.) -/
def Obligations.StepKeepsPinsConfigurationAndTrace : Prop :=
  ∀ s t : State, step s = .next t →
    t.pins = s.pins ∧ (s.cfg = true → t.cfg = true) ∧ s.trace <+: t.trace ∧
    (s.cfg = false → t.cfg = true → ∃ rest, decode s.input = .instr .setup rest)

/-- From every state that meets the machine invariant, a step that goes on gives a state that meets it: each word has no
digit-select flag or exactly its own, the pins are distinct, the trace is a sequence of bursts with SETUP's preceded
by the three Configure events, CFG and the line levels are those the trace determines, and between operations no line
is driven before SETUP and LATCH is high and CLOCK low after it. The invariant rests on choices of the spec: CLOCK low
after SETUP on the clock pulse (D7, PRESUMED, log 9), no level before SETUP on D11 (DESIGN CHOICE, log 11), whole
bursts in the trace on TRANSMIT being internal (D17, DESIGN CHOICE, log 19). A step decodes the field input (log 1).
(R34, R165, R27, R171, R167, 10_state.md section 2, 44_transceiver.md section 4, 92_eei_decisions.md D7,
92_eei_decisions.md D11, 92_eei_decisions.md D17.) -/
def Obligations.StepKeepsTheMachineInvariant : Prop :=
  ∀ s t : State, MachineInv s → step s = .next t → MachineInv t

/-- For every pin configuration, every state reached from construction by issuing operations in their abstract form (texts
of any length included), sending bytes and stepping meets the machine invariant and still has the pins it was
constructed with. The invariant rests on choices of the spec: CLOCK low after SETUP on the clock pulse (D7, PRESUMED,
log 9), no level before SETUP on D11 (DESIGN CHOICE, log 11), whole bursts in the trace on TRANSMIT being internal
(D17, DESIGN CHOICE, log 19). No instance has equal pins, since construction refuses them (D13, DESIGN CHOICE, log
18). (R34, R165, R27, R210, 10_state.md section 2, 44_transceiver.md section 4, 92_eei_decisions.md D7,
92_eei_decisions.md D11, 92_eei_decisions.md D17, 92_eei_decisions.md D13.) -/
def Obligations.ReachableStatesMeetTheInvariant : Prop :=
  ∀ (p : PinConfig) (s : State), Reachable p s → MachineInv s ∧ s.pins = p

/-- Running a sequence after another is running it from the state the other left; and whatever a sequence answers from a
state with an empty trace it answers from the state with any trace, with its own events appended. (R49, R164,
20_memory.md section 6.) -/
def Obligations.TracesOfASequenceConcatenate : Prop :=
  (∀ (xs ys : List Instr) (s t : State), runOps xs s = .next t → runOps (xs ++ ys) s = runOps ys t) ∧
  (∀ (ops : List Instr) (s t : State), runOps ops { s with trace := [] } = .next t →
      runOps ops s = .next { t with trace := s.trace ++ t.trace })

/-- From two states with the same buffer, whatever their pins, CFG, lines, traces, results and inputs, an operation that
completes in one completes in the other with the same buffer, the same result and the same events. (R20, R26, R97,
R161, R164, 10_state.md section 5.) -/
def Obligations.OutputDependsOnTheBufferAlone : Prop :=
  ∀ (i : Instr) (s s' t : State), s.buf = s'.buf → exec i s = .next t →
    ∃ t' es, exec i s' = .next t' ∧ t'.buf = t.buf ∧ t'.result = t.result ∧
      t.trace = s.trace ++ es ∧ t'.trace = s'.trace ++ es

/-- Whatever operation completes, the primitive calls it adds, seen with the identifiers of the instance, drive only its
latch line, shift out only on its data and clock lines, and configure only its three lines. (R25, R164, R5,
10_state.md section 5.) -/
def Obligations.PrimitiveCallsNameTheirOwnPins : Prop :=
  ∀ (i : Instr) (s t : State), exec i s = .next t →
    ∃ calls, pinCalls t = pinCalls s ++ calls ∧ ∀ c ∈ calls, namesOwnPins s.pins c

/-- Issuing an operation to one instance of a system does to it what the operation does and leaves every other instance
unchanged. A system of instances with distinct pins is constructed, each instance fresh, if no line is named twice,
and refused as sharedLine otherwise. Refusing shared lines is the spec's DESIGN CHOICE D19 (log 18). (R23, R197,
60_exceptions.md section 10, 92_eei_decisions.md D19.) -/
def Obligations.InstancesAreIndependent : Prop :=
  (∀ (sys : System) (k : Fin sys.instances.length) (i : Instr) (t : State),
      exec i (sys.instances.get k) = .next t → ∃ sys', execOn sys k i = .next sys' ∧
        sys'.instances.length = sys.instances.length ∧ sys'.instances[k.val]? = some t ∧
        ∀ j, j ≠ k.val → sys'.instances[j]? = sys.instances[j]?) ∧
  (∀ ps : List PinConfig, (∀ p ∈ ps, pinsDistinct p = true) → (ps.flatMap pinIds).Nodup →
      constructSystem ps = .next { instances := ps.map State.fresh }) ∧
  (∀ ps : List PinConfig, (∀ p ∈ ps, pinsDistinct p = true) → ¬ (ps.flatMap pinIds).Nodup →
      constructSystem ps = .refused .sharedLine)

/-- From every state a step goes on, or it is refused because the header at the head of the input is reserved, because the
payload after it is shorter than its row demands, or because it is a DISPLAY_TEXT whose walk reaches a code 0x00.
Every construction goes on or is refused because two identifiers are equal. Every construction of a system goes on, or
is refused because an instance has equal identifiers or, each instance having distinct ones, because two instances
name one line. There is no fault and no other refusal. The refusals are the spec's own (D9, D10, D13, D19, DESIGN
CHOICE, logs 8, 17, 18); that less than a header is no refusal is the model's DESIGN CHOICE (log 13). (R200, R76,
R152, 60_exceptions.md section 1, 92_eei_decisions.md D23, 92_eei_decisions.md D9, 92_eei_decisions.md D10,
92_eei_decisions.md D13, 92_eei_decisions.md D19.) -/
def Obligations.RefusalsAreTheClosedList : Prop :=
  (∀ s : State, (∃ t, step s = .next t) ∨
    (∃ op modifier payload, s.input = op :: modifier :: payload ∧
      ((step s = .refused .reservedHeader ∧ isReserved op modifier = true) ∨
       (step s = .refused .shortPayload ∧ ∃ row, selectRow (Word.ofBytes op modifier) = some row ∧
          2 + payload.length < row.commandLength modifier) ∨
       (step s = .refused .textNulReached ∧ ∃ text rest, decode s.input = .instr (.displayText text) rest ∧
          reachesNul text = true)))) ∧
  (∀ p : PinConfig, (∃ t, construct p = .next t) ∨
    (construct p = .refused .pinsNotDistinct ∧ (p.data = p.latch ∨ p.data = p.clock ∨ p.latch = p.clock))) ∧
  (∀ ps : List PinConfig, (∃ sys, constructSystem ps = .next sys) ∨
    (constructSystem ps = .refused .pinsNotDistinct ∧ ∃ p ∈ ps, pinsDistinct p = false) ∨
    (constructSystem ps = .refused .sharedLine ∧ (∀ p ∈ ps, pinsDistinct p = true) ∧ ¬ (ps.flatMap pinIds).Nodup))
end

