-- ==== Sys2Proof/Laws/State.lean ====
section
/-! SUPPORT. One lemma per field per update of State. -/

namespace Sys2Proof.Machine.State

variable (s : State)

@[simp] theorem setBuf_buf (b : DigitBuffer) : (s.setBuf b).buf = b := rfl
@[simp] theorem setBuf_pins (b : DigitBuffer) : (s.setBuf b).pins = s.pins := rfl
@[simp] theorem setBuf_cfg (b : DigitBuffer) : (s.setBuf b).cfg = s.cfg := rfl
@[simp] theorem setBuf_lines (b : DigitBuffer) : (s.setBuf b).lines = s.lines := rfl
@[simp] theorem setBuf_trace (b : DigitBuffer) : (s.setBuf b).trace = s.trace := rfl
@[simp] theorem setBuf_result (b : DigitBuffer) : (s.setBuf b).result = s.result := rfl
@[simp] theorem setBuf_input (b : DigitBuffer) : (s.setBuf b).input = s.input := rfl

@[simp] theorem setCfg_buf (c : Bool) : (s.setCfg c).buf = s.buf := rfl
@[simp] theorem setCfg_pins (c : Bool) : (s.setCfg c).pins = s.pins := rfl
@[simp] theorem setCfg_cfg (c : Bool) : (s.setCfg c).cfg = c := rfl
@[simp] theorem setCfg_lines (c : Bool) : (s.setCfg c).lines = s.lines := rfl
@[simp] theorem setCfg_trace (c : Bool) : (s.setCfg c).trace = s.trace := rfl
@[simp] theorem setCfg_result (c : Bool) : (s.setCfg c).result = s.result := rfl
@[simp] theorem setCfg_input (c : Bool) : (s.setCfg c).input = s.input := rfl

@[simp] theorem setResult_buf (r : Option Word) : (s.setResult r).buf = s.buf := rfl
@[simp] theorem setResult_pins (r : Option Word) : (s.setResult r).pins = s.pins := rfl
@[simp] theorem setResult_cfg (r : Option Word) : (s.setResult r).cfg = s.cfg := rfl
@[simp] theorem setResult_lines (r : Option Word) : (s.setResult r).lines = s.lines := rfl
@[simp] theorem setResult_trace (r : Option Word) : (s.setResult r).trace = s.trace := rfl
@[simp] theorem setResult_result (r : Option Word) : (s.setResult r).result = r := rfl
@[simp] theorem setResult_input (r : Option Word) : (s.setResult r).input = s.input := rfl

@[simp] theorem setInput_buf (i : List Byte) : (s.setInput i).buf = s.buf := rfl
@[simp] theorem setInput_pins (i : List Byte) : (s.setInput i).pins = s.pins := rfl
@[simp] theorem setInput_cfg (i : List Byte) : (s.setInput i).cfg = s.cfg := rfl
@[simp] theorem setInput_lines (i : List Byte) : (s.setInput i).lines = s.lines := rfl
@[simp] theorem setInput_trace (i : List Byte) : (s.setInput i).trace = s.trace := rfl
@[simp] theorem setInput_result (i : List Byte) : (s.setInput i).result = s.result := rfl
@[simp] theorem setInput_input (i : List Byte) : (s.setInput i).input = i := rfl

@[simp] theorem logEvent_buf (e : Event) (l : Lines) : (s.logEvent e l).buf = s.buf := rfl
@[simp] theorem logEvent_pins (e : Event) (l : Lines) : (s.logEvent e l).pins = s.pins := rfl
@[simp] theorem logEvent_cfg (e : Event) (l : Lines) : (s.logEvent e l).cfg = s.cfg := rfl
@[simp] theorem logEvent_lines (e : Event) (l : Lines) : (s.logEvent e l).lines = l := rfl
@[simp] theorem logEvent_trace (e : Event) (l : Lines) : (s.logEvent e l).trace = s.trace ++ [e] := rfl
@[simp] theorem logEvent_result (e : Event) (l : Lines) : (s.logEvent e l).result = s.result := rfl
@[simp] theorem logEvent_input (e : Event) (l : Lines) : (s.logEvent e l).input = s.input := rfl

end Sys2Proof.Machine.State
end

