-- ==== Sys2Proof/Laws/Buffer.lean ====
section
/-! SUPPORT. Reading and writing the digit buffer. -/

namespace Sys2Proof.Machine

/-- A read after a write to the same word gives the value written. -/
@[simp] theorem DigitBuffer.get_set_same (b : DigitBuffer) (v : Word) (k : Fin 4) : (b.set v k).get k = v := by
  fin_cases k <;> rfl

/-- A write leaves every other word alone. -/
theorem DigitBuffer.get_set_other (b : DigitBuffer) (v : Word) {k j : Fin 4} (h : j ≠ k) :
    (b.set v k).get j = b.get j := by
  fin_cases k <;> fin_cases j <;> first | rfl | exact absurd rfl h

/-- Two buffers with the same four words are equal. -/
theorem DigitBuffer.ext_get {a b : DigitBuffer} (h : ∀ k, a.get k = b.get k) : a = b := by
  have h0 := h 0
  have h1 := h 1
  have h2 := h 2
  have h3 := h 3
  cases a
  cases b
  simp only [DigitBuffer.get] at h0 h1 h2 h3
  simp [h0, h1, h2, h3]

@[simp] theorem DigitBuffer.get_ofFn (f : Fin 4 → Word) (k : Fin 4) : (DigitBuffer.ofFn f).get k = f k := by
  fin_cases k <;> rfl

/-- ORing into word `k` changes word `k` only. -/
theorem DigitBuffer.get_orInto (b : DigitBuffer) (k j : Fin 4) (v : Word) :
    (b.orInto k v).get j = if j = k then b.get j ||| v else b.get j := by
  by_cases h : j = k
  · subst h
    simp [DigitBuffer.orInto]
  · simp [DigitBuffer.orInto, h, DigitBuffer.get_set_other]

/-- Filling the buffer writes the buffer and nothing else. -/
theorem fillBuffer_eq (f : Fin 4 → Word) (s : State) : fillBuffer f s = s.setBuf (DigitBuffer.ofFn f) := rfl

end Sys2Proof.Machine
end

