-- ==== Sys2Proof/Laws/Decode.lean ====
section
/-! SUPPORT. What the decoder's reading of a text does. -/

namespace Sys2Proof

/-- Everything `takeBytes` can answer. -/
theorem takeBytes_eq (n : Nat) (bytes : List Byte) :
    takeBytes n bytes = if n ≤ bytes.length then some (bytes.take n, bytes.drop n) else none := by
  induction n generalizing bytes with
  | zero => simp [takeBytes]
  | succ n ih =>
    cases bytes with
    | nil => simp [takeBytes]
    | cons b bytes => by_cases h : n ≤ bytes.length <;> simp [takeBytes, ih, h]

/-- A text is read back from the bytes it was put into, whatever follows it. -/
@[simp] theorem takeBytes_append (text rest : List Byte) : takeBytes text.length (text ++ rest) = some (text, rest) := by
  simp [takeBytes_eq]

end Sys2Proof
end

