-- ==== Sys2Proof/Laws/Ops.lean ====
section
/-! SUPPORT. What emitting, transmitting, refreshing and setting up do, each said once. -/

namespace Sys2Proof.Machine

/-! ### One event -/

@[simp] theorem emit_buf (e : Event) (s : State) : (emit e s).buf = s.buf := rfl
@[simp] theorem emit_pins (e : Event) (s : State) : (emit e s).pins = s.pins := rfl
@[simp] theorem emit_cfg (e : Event) (s : State) : (emit e s).cfg = s.cfg := rfl
@[simp] theorem emit_result (e : Event) (s : State) : (emit e s).result = s.result := rfl
@[simp] theorem emit_input (e : Event) (s : State) : (emit e s).input = s.input := rfl
@[simp] theorem emit_trace (e : Event) (s : State) : (emit e s).trace = s.trace ++ [e] := rfl

/-- The lines follow an event's line writes exactly when they have been configured. -/
theorem emit_lines (e : Event) (s : State) :
    (emit e s).lines = if s.cfg then e.lineWrites.foldl Lines.write s.lines else s.lines := rfl

/-- Nothing drives a line that has not been configured (`44_transceiver.md` R171). -/
theorem emit_lines_unconfigured {s : State} (h : s.cfg = false) (e : Event) : (emit e s).lines = s.lines := by
  simp [emit_lines, h]

/-! ### The two halves of a word -/

theorem Word_high_eq (w : Word) : w.high = BitVec.ofNat 8 (w.toNat / 256) := by
  apply BitVec.eq_of_toNat_eq
  simp [Word.high, Nat.shiftRight_eq_div_pow]

theorem Word_low_eq (w : Word) : w.low = BitVec.ofNat 8 (w.toNat % 256) := by
  apply BitVec.eq_of_toNat_eq
  simp [Word.low]

/-- A word is its high byte and its low byte. -/
theorem Word_high_append_low (w : Word) : Word.ofBytes w.high w.low = w := by
  apply BitVec.eq_of_getLsbD_eq
  intro i hi
  simp only [Word.ofBytes, Word.high, Word.low, BitVec.getLsbD_append, BitVec.getLsbD_extractLsb']
  by_cases h : i < 8
  · simp [h]
  · simp [h, show i - 8 < 8 by omega, show 8 + (i - 8) = i by omega]

/-! ### SHIFT_OUT8, TRANSMIT and REFRESH -/

/-- The lines after a byte is shifted out: DATA at its bit 0, CLOCK low, LATCH untouched (`44_transceiver.md` R163). -/
theorem shiftOut8_writes (b : Byte) (ls : Lines) :
    (Event.shiftOut8 b).lineWrites.foldl Lines.write ls =
      { data := some (b.getLsbD 0), clock := some false, latch := ls.latch } := by
  simp [Event.lineWrites, Event.lineWritesWith, shiftOrder, bitWrites, Config.clockPulse, Lines.write]

@[simp] theorem transmit_buf (w : Word) (s : State) : (transmit w s).buf = s.buf := rfl
@[simp] theorem transmit_pins (w : Word) (s : State) : (transmit w s).pins = s.pins := rfl
@[simp] theorem transmit_cfg (w : Word) (s : State) : (transmit w s).cfg = s.cfg := rfl
@[simp] theorem transmit_result (w : Word) (s : State) : (transmit w s).result = s.result := rfl
@[simp] theorem transmit_input (w : Word) (s : State) : (transmit w s).input = s.input := rfl

/-- TRANSMIT emits one frame (`30_encoding.md` R66). -/
theorem transmit_trace (w : Word) (s : State) : (transmit w s).trace = s.trace ++ frame w := by
  simp [transmit, shiftOut8, frame, Word_high_eq, Word_low_eq]

/-- The line levels after TRANSMIT (`44_transceiver.md` R167, R171). -/
theorem transmit_lines (w : Word) (s : State) :
    (transmit w s).lines =
      if s.cfg then { data := some (w.getLsbD 0), clock := some false, latch := some true } else s.lines := by
  cases h : s.cfg
  · simp [transmit, shiftOut8, emit_lines, h]
  · have low : Event.lineWrites .latchLow = [{ line := .latch, level := false }] := rfl
    have high : Event.lineWrites .latchHigh = [{ line := .latch, level := true }] := rfl
    simp [transmit, shiftOut8, emit_lines, h, shiftOut8_writes, low, high, Lines.write, Word.low]

/-- REFRESH is four TRANSMITs (`44_transceiver.md` R160). -/
theorem refresh_eq (s : State) :
    refresh s = transmit s.buf.w3 (transmit s.buf.w2 (transmit s.buf.w1 (transmit s.buf.w0 s))) := rfl

@[simp] theorem refresh_buf (s : State) : (refresh s).buf = s.buf := by simp [refresh_eq]
@[simp] theorem refresh_pins (s : State) : (refresh s).pins = s.pins := by simp [refresh_eq]
@[simp] theorem refresh_cfg (s : State) : (refresh s).cfg = s.cfg := by simp [refresh_eq]
@[simp] theorem refresh_result (s : State) : (refresh s).result = s.result := by simp [refresh_eq]
@[simp] theorem refresh_input (s : State) : (refresh s).input = s.input := by simp [refresh_eq]

/-- A REFRESH adds the burst of the buffer to the trace. -/
theorem refresh_burst (s : State) : (refresh s).trace = s.trace ++ burst s.buf := by
  simp [refresh_eq, transmit_trace, burst]

/-- Where a REFRESH leaves the lines. -/
theorem refresh_levels (s : State) :
    (refresh s).lines =
      if s.cfg then { data := some (s.buf.w3.getLsbD 0), clock := some false, latch := some true } else s.lines := by
  cases h : s.cfg <;> simp [refresh_eq, transmit_lines, h]

/-! ### SETUP's parts -/

/-- Configuring lines adds one event a line and changes nothing else. -/
theorem configureLines_eq (order : List Line) (s : State) :
    configureLines order s = { s with trace := s.trace ++ order.map Event.configure } := by
  unfold configureLines
  induction order generalizing s with
  | nil => simp
  | cons l order ih =>
    rw [List.foldl_cons, ih]
    cases h : s.cfg <;>
      simp [emit, State.logEvent, Event.lineWrites, Event.lineWritesWith, h]

/-- Everything SETUP does, under any order of its Configure events. -/
theorem setupWith_eq (order : List Line) (s : State) :
    setupWith order s =
      { s with
        buf := zeroBuffer, cfg := true
        lines := { data := some false, clock := some false, latch := some true }
        trace := s.trace ++ order.map Event.configure ++ burst zeroBuffer } := by
  have buf : (setupWith order s).buf = zeroBuffer := by
    simp [setupWith, clear, fillBuffer_eq, DigitBuffer.ofFn, zeroBuffer]
  have cfg : (setupWith order s).cfg = true := by simp [setupWith, clear, fillBuffer_eq]
  have lines : (setupWith order s).lines =
      { data := some false, clock := some false, latch := some true } := by
    simp [setupWith, refresh_levels, clear, fillBuffer_eq, DigitBuffer.ofFn]
  have trace : (setupWith order s).trace = s.trace ++ order.map Event.configure ++ burst zeroBuffer := by
    rw [setupWith, refresh_burst]
    simp [clear, fillBuffer_eq, configureLines_eq, DigitBuffer.ofFn, zeroBuffer]
  have pins : (setupWith order s).pins = s.pins := by
    rw [setupWith, refresh_pins]
    simp [clear, fillBuffer_eq, configureLines_eq]
  have result : (setupWith order s).result = s.result := by
    rw [setupWith, refresh_result]
    simp [clear, fillBuffer_eq, configureLines_eq]
  have input : (setupWith order s).input = s.input := by
    rw [setupWith, refresh_input]
    simp [clear, fillBuffer_eq, configureLines_eq]
  generalize setupWith order s = t at *
  cases t
  simp_all

end Sys2Proof.Machine
end

