-- ==== Sys2Proof/Laws/Text.lean ====
section
/-! SUPPORT. The text walk, one turn at a time, and what it can do to a buffer. -/

namespace Sys2Proof.Machine

variable (p : TextNulPolicy) (rest : List Byte) (b : DigitBuffer)

@[simp] theorem textWalk_nil (i : Nat) : textWalk p [] i b = some b := rfl

/-- With the cursor at 4 the walk has stopped, whatever is left (`43_formatter_text.md` R147, R150). -/
theorem textWalk_full {i : Nat} (h : 4 ≤ i) (text : List Byte) : textWalk p text i b = some b := by
  cases text with
  | nil => rfl
  | cons c rest => simp [textWalk, Nat.not_lt.mpr h]

/-- A point goes to the previous digit and keeps the cursor. -/
theorem textWalk_point {i : Nat} (h : i < 4) :
    textWalk p (charPoint :: rest) i b =
      textWalk p rest i (b.orInto (previousDigit ⟨i, h⟩) DigitFlag.DP) := by
  have nul : charPoint ≠ 0x00 := by decide
  simp only [textWalk, h, nul, false_and, dite_true, if_true, if_false]

/-- Any other character that is not 0x00 goes to the digit at the cursor and advances it. -/
theorem textWalk_glyph {i : Nat} (h : i < 4) {c : Byte} (point : c ≠ charPoint) (nul : c ≠ 0x00) :
    textWalk p (c :: rest) i b = textWalk p rest (i + 1) (b.orInto ⟨i, h⟩ (lut c.toNat)) := by
  simp only [textWalk, h, nul, point, false_and, dite_true, if_false]

/-- A code 0x00 under each policy (`43_formatter_text.md` R152). -/
theorem textWalk_nul {i : Nat} (h : i < 4) :
    textWalk p (0x00 :: rest) i b =
      match p with
      | .refuse => none
      | .terminate => some b
      | .ordinary => textWalk .ordinary rest (i + 1) (b.orInto ⟨i, h⟩ (lut 0)) := by
  have point : ¬ (0#8 : Byte) = charPoint := by decide
  cases p
  · simp [textWalk, h]
  · simp [textWalk, h]
  · simp [textWalk, h, point]

/-- A property that survives ORing DP into a digit before the last, and an encoder result into any digit, survives the
walk. -/
theorem textWalk_preserves {P : DigitBuffer → Prop}
    (point : ∀ b (k : Fin 4), P b → P (b.orInto (previousDigit k) DigitFlag.DP))
    (glyph : ∀ b (k : Fin 4) (c : Byte), c ≠ charPoint → P b → P (b.orInto k (lut c.toNat)))
    {text : List Byte} {i : Nat} {b b' : DigitBuffer} (h : textWalk p text i b = some b') (hb : P b) : P b' := by
  induction text generalizing i b with
  | nil => exact Option.some.inj h ▸ hb
  | cons c rest ih =>
    by_cases hi : i < 4
    · by_cases hp : c = charPoint
      · subst hp
        rw [textWalk_point _ _ _ hi] at h
        exact ih h (point _ _ hb)
      · by_cases hz : c = 0x00
        · subst hz
          rw [textWalk_nul _ _ _ hi] at h
          cases p with
          | refuse => exact absurd h (by simp)
          | terminate => exact Option.some.inj h ▸ hb
          | ordinary => exact ih h (glyph _ _ _ hp hb)
        · rw [textWalk_glyph _ _ _ hi hp hz] at h
          exact ih h (glyph _ _ _ hp hb)
    · rw [textWalk_full _ _ (Nat.not_lt.mp hi)] at h
      exact Option.some.inj h ▸ hb

end Sys2Proof.Machine
end

