-- ==== Sys2Proof/Laws/Exec.lean ====
section
/-! SUPPORT. Inversion of one operation and of one step: everything that can have happened. -/

namespace Sys2Proof.Machine

/-- The nine ways an operation can answer a next state. -/
theorem exec_cases {i : Instr} {s t : State} (h : exec i s = .next t) :
    (∃ c, i = .encode c ∧ t = s.setResult (some (lut c.toNat))) ∨
    (i = .clear ∧ t = (s.setBuf zeroBuffer).setResult none) ∨
    (i = .setup ∧ t = (setupWith Config.configureOrder s).setResult none) ∨
    (∃ m1 m2 m3 m4 colon, i = .displayRaw m1 m2 m3 m4 colon ∧
      t = (s.setBuf (DigitBuffer.ofFn fun k => rawWord mask k (rawMask m1 m2 m3 m4 k) colon)).setResult none) ∨
    (∃ hi lo, i = .displayDec hi lo ∧ t = (displayGlyphPairs decimalGlyphs hi lo s).setResult none) ∨
    (∃ hi lo, i = .displayHex hi lo ∧ t = (displayGlyphPairs hexGlyphs hi lo s).setResult none) ∨
    (∃ e, i = .colon e ∧ t = (s.setBuf (DigitBuffer.ofFn fun k => withColon e (s.buf.get k))).setResult none) ∨
    (∃ text b, i = .displayText text ∧ textWalk Config.textNulPolicy text 0 (DigitBuffer.ofFn dsel) = some b ∧
      t = (s.setBuf b).setResult none) ∨
    (i = .refresh ∧ t = (refresh s).setResult none) := by
  cases i with
  | encode c => exact .inl ⟨c, rfl, (Host.Outcome.next.inj h).symm⟩
  | clear => exact .inr <| .inl ⟨rfl, (Host.Outcome.next.inj h).symm⟩
  | setup => exact .inr <| .inr <| .inl ⟨rfl, (Host.Outcome.next.inj h).symm⟩
  | displayRaw m1 m2 m3 m4 colon =>
    exact .inr <| .inr <| .inr <| .inl ⟨m1, m2, m3, m4, colon, rfl, (Host.Outcome.next.inj h).symm⟩
  | displayDec hi lo =>
    exact .inr <| .inr <| .inr <| .inr <| .inl ⟨hi, lo, rfl, (Host.Outcome.next.inj h).symm⟩
  | displayHex hi lo =>
    exact .inr <| .inr <| .inr <| .inr <| .inr <| .inl ⟨hi, lo, rfl, (Host.Outcome.next.inj h).symm⟩
  | colon e =>
    exact .inr <| .inr <| .inr <| .inr <| .inr <| .inr <| .inl ⟨e, rfl, (Host.Outcome.next.inj h).symm⟩
  | displayText text =>
    refine .inr <| .inr <| .inr <| .inr <| .inr <| .inr <| .inr <| .inl ?_
    simp only [exec, execDisplayText, displayTextWith] at h
    split at h
    · exact ⟨text, _, rfl, ‹_›, (Host.Outcome.next.inj h).symm⟩
    · cases h
  | refresh =>
    exact .inr <| .inr <| .inr <| .inr <| .inr <| .inr <| .inr <| .inr ⟨rfl, (Host.Outcome.next.inj h).symm⟩

/-- No command stands in the host's bytes exactly when they are fewer than the two of a header. -/
theorem decode_eq_noHeader_iff (bytes : List Byte) : decode bytes = .noHeader ↔ bytes.length < 2 := by
  match bytes with
  | [] => simp [decode]
  | [_] => simp [decode]
  | op :: modifier :: payload =>
    have payload_ne (row : Opcode) : decodePayload modifier payload row ≠ .noHeader := by
      cases row <;> simp only [decodePayload] <;> (try split) <;> exact Decoded.noConfusion
    simp only [decode, List.length_cons]
    split
    · simpa using payload_ne _
    · simp

/-- A step that answers a next state held its state for want of a command, or ran the command it decoded. -/
theorem step_cases {s t : State} (h : step s = .next t) :
    (s.input.length < 2 ∧ t = s) ∨
    (∃ i rest, decode s.input = .instr i rest ∧ exec i (s.setInput rest) = .next t) := by
  cases hd : decode s.input with
  | instr i rest =>
    simp only [step, fetch, hd] at h
    exact .inr ⟨i, rest, rfl, h⟩
  | reservedHeader => simp [step, fetch, hd] at h
  | shortPayload => simp [step, fetch, hd] at h
  | noHeader =>
    simp only [step, fetch, hd] at h
    exact .inl ⟨(decode_eq_noHeader_iff _).mp hd, (Host.Outcome.next.inj h).symm⟩

end Sys2Proof.Machine
end

