-- ==== Sys2Proof/Laws/Lut.lean ====
section
/-! SUPPORT. The encoder table. -/

namespace Sys2Proof.Machine

/-- A value read from the table is 0 or stands in one of its rows. -/
theorem lut_zero_or_row (c : Nat) : lut c = 0 ∨ (c, lut c) ∈ lutRows := by
  unfold lut
  generalize lutRows = rows
  induction rows with
  | nil => exact .inl rfl
  | cons r rows ih =>
    obtain ⟨k, v⟩ := r
    by_cases h : c = k
    · subst h
      exact .inr (by simp)
    · rw [List.lookup_cons, show (c == k) = false by simpa using h]
      exact ih.imp id (List.mem_cons_of_mem _)

/-- A property of 0 and of every row's value holds of every value of the table. -/
theorem lut_induction {P : Word → Prop} (zero : P 0) (rows : ∀ r ∈ lutRows, P r.2) (c : Nat) : P (lut c) := by
  obtain h | h := lut_zero_or_row c
  · rw [h]
    exact zero
  · exact rows _ h

/-- Every key of the table is a byte, so a wider code takes the fallback (`93_implementation_defined.md` U15). -/
theorem lut_of_wide {c : Nat} (h : 256 ≤ c) : lut c = 0 := by
  obtain h0 | hr := lut_zero_or_row c
  · exact h0
  · exact absurd ((by decide : ∀ r ∈ lutRows, r.1 < 256) _ hr) (by simpa using h)

end Sys2Proof.Machine
end

