-- ==== Sys2Proof/Laws/PerInstr.lean ====
section
/-! SUPPORT. Statements made per operation. -/

namespace Sys2Proof

/-- A header with a flag in its low bit selects its row whatever the flag. -/
theorem selectRow_flag (flag : Bool) :
    selectRow (Word.ofBytes 0x04 (flagModifier flag)) = some .displayRaw ∧
    selectRow (Word.ofBytes 0x06 (flagModifier flag)) = some .colon := by
  cases flag <;> decide

/-- Every modifier is a character code (`30_encoding.md` R71, row ENCODE). -/
theorem selectRow_encode : ∀ c : Byte, selectRow (Word.ofBytes 0x01 c) = some .encode := by decide

/-- Every modifier is a text length (`30_encoding.md` R71, row DISPLAY_TEXT). -/
theorem selectRow_displayText : ∀ n : Byte, selectRow (Word.ofBytes 0x07 n) = some .displayText := by decide

end Sys2Proof

namespace Sys2Proof.Laws.EncodedHeader

/-- The header of an operation's command selects a row, and the command has the length the header determines
(`30_encoding.md` R71, R72). -/
def Statement (i : Instr) : Prop :=
  i.wf = true → ∃ op modifier payload row, encode i = op :: modifier :: payload ∧
    selectRow (Word.ofBytes op modifier) = some row ∧ (encode i).length = row.commandLength modifier

theorem encode (c : Byte) : Statement (.encode c) := fun _ =>
  ⟨_, _, _, _, rfl, selectRow_encode c, rfl⟩

theorem clear : Statement .clear := fun _ => ⟨_, _, _, .clear, rfl, by decide, rfl⟩

theorem setup : Statement .setup := fun _ => ⟨_, _, _, .setup, rfl, by decide, rfl⟩

theorem displayRaw (mask1 mask2 mask3 mask4 : Word) (colon : Bool) :
    Statement (.displayRaw mask1 mask2 mask3 mask4 colon) := fun _ =>
  ⟨_, _, _, _, rfl, (selectRow_flag colon).1, rfl⟩

theorem displayDec (hi lo : Byte) : Statement (.displayDec hi lo) := fun _ =>
  ⟨_, _, _, .displayDec, rfl, by decide, rfl⟩

theorem displayHex (hi lo : Byte) : Statement (.displayHex hi lo) := fun _ =>
  ⟨_, _, _, .displayHex, rfl, by decide, rfl⟩

theorem colon (enabled : Bool) : Statement (.colon enabled) := fun _ =>
  ⟨_, _, _, _, rfl, (selectRow_flag enabled).2, rfl⟩

theorem displayText (text : List Byte) : Statement (.displayText text) := fun h => by
  have short : text.length < 2 ^ 8 := by
    have : text.length ≤ 255 := of_decide_eq_true h
    omega
  refine ⟨_, _, _, _, rfl, selectRow_displayText _, ?_⟩
  simp only [Sys2Proof.encode, Opcode.commandLength, List.length_cons, BitVec.toNat_ofNat, Nat.mod_eq_of_lt short]
  omega

theorem refresh : Statement .refresh := fun _ => ⟨_, _, _, .refresh, rfl, by decide, rfl⟩

end Sys2Proof.Laws.EncodedHeader
end

