-- ==== Sys2Proof/Tests/Slice0.lean ====
section
/-! SUPPORT. Tests of single steps, with expected values from the tables of the spec, and the witnesses that the hypotheses
of the obligations can be met. "V1" to "V8" are the sections of `95_test_vectors.md`, "P1" to "P6" its programs. -/

namespace Sys2Proof.Tests

open Sys2Proof.Machine

/-! ### Helpers -/

/-- A fresh instance with a given buffer and CFG. -/
def stateWith (w0 w1 w2 w3 : Word) (cfg : Bool) : State :=
  (State.reset.setBuf { w0 := w0, w1 := w1, w2 := w2, w3 := w3 }).setCfg cfg

/-- "1234" in the buffer, after SETUP: the buffer most vectors start from. -/
def showing1234 : State := stateWith 0x8088 0x5C48 0x44D8 0x20E8 true

/-- A fresh instance to which the host has sent some bytes. -/
def sent (bytes : List Byte) : State := State.reset.setInput bytes

/-- The buffer an outcome leaves, if it is a next state. -/
def wordsAfter (o : Host.Outcome State Fault Refusal) : Option (List Word) :=
  (nextOf o).map fun t => bufferWords t.buf

/-- The trace an outcome leaves, if it is a next state. -/
def traceAfter (o : Host.Outcome State Fault Refusal) : Option (List Event) := (nextOf o).map State.trace

/-- The result an outcome returns, if it is a next state with one. -/
def resultAfter (o : Host.Outcome State Fault Refusal) : Option Word := (nextOf o).bind State.result

/-- A text of `n` times '1'. -/
def ones (n : Nat) : List Byte := List.replicate n 0x31

/-! ### WellFormed: the one check, TEXT_MAX (`30_encoding.md` R72) -/

theorem test_wf_refuses_text_of_256 : (Instr.displayText (ones 256)).wf = false := by
  rw [Instr.wf, ones, List.length_replicate]; rfl

theorem test_wf_accepts_text_of_255 : (Instr.displayText (ones 255)).wf = true := by
  rw [Instr.wf, ones, List.length_replicate]; rfl

/-! ### Decode: the words of `30_encoding.md` R71, bit by bit from the `encoding` column of `opcode_table.json` -/

theorem test_decode_encode : decodeTableWord 16 0b0000000101001000 = some (.encode 0x48) := by decide

theorem test_decode_clear : decodeTableWord 16 0b0000001000000000 = some .clear := by decide

theorem test_decode_setup : decodeTableWord 16 0b0000001100000000 = some .setup := by decide

theorem test_decode_displayRaw : decodeTableWord 16 0b0000010000000001 = some (.displayRaw 0 0 0 0 true) := by decide

theorem test_decode_displayDec : decodeTableWord 16 0b0000010100000000 = some (.displayDec 0 0) := by decide

theorem test_decode_displayHex : decodeTableWord 16 0b0000010100000001 = some (.displayHex 0 0) := by decide

theorem test_decode_colon : decodeTableWord 16 0b0000011000000001 = some (.colon true) := by decide

theorem test_decode_displayText : decodeTableWord 16 0b0000011100000010 = some (.displayText [0x00, 0x00]) := by decide

theorem test_decode_refresh : decodeTableWord 16 0b0000100000000000 = some .refresh := by decide

/-- A second word of the instruction: bits 31..16 of the number (log 16). -/
theorem test_decode_payload_word : decodeTableWord 32 0x0C220500 = some (.displayDec 12 34) := by decide

/-- The command bytes of P3, step 5, with the bytes of the next command left over. -/
theorem test_decode_displayRaw_command :
    decode [0x04, 0x00, 0x28, 0xC8, 0x6E, 0x40, 0x2C, 0x00, 0xF8, 0x7C, 0x08, 0x00] =
      .instr (.displayRaw 0x28C8 0x6E40 0x2C00 0xF87C false) [0x08, 0x00] := by decide

/-- The command bytes of P2, step 2. -/
theorem test_decode_displayText_command :
    decode [0x07, 0x05, 0x2D, 0x33, 0x2E, 0x31, 0x34] = .instr (.displayText [0x2D, 0x33, 0x2E, 0x31, 0x34]) [] := by
  decide

/-- P6, steps 3 and 4, and the other headers of `30_encoding.md` R76. -/
theorem test_reserved_headers :
    [0x0900, 0x0502, 0x0000, 0xFF00, 0x0201, 0x0301, 0x0801, 0x0402, 0x0480, 0x0602].map (decodeTableWord 16) =
      List.replicate 10 none := by decide

theorem test_reserved_header_is_refused : step (sent [0x09, 0x00]) = .refused .reservedHeader := by rfl

/-- Half a header is no command (log 13). -/
theorem test_lone_byte_is_held : step (sent [0x08]) = .next (sent [0x08]) := by rfl

theorem test_short_payload_is_refused : step (sent [0x07, 0x03, 0x41, 0x42]) = .refused .shortPayload := by rfl

/-- The first step after reset runs the command that is sent, here each command without a payload. -/
theorem test_step_runs_the_fetch_word :
    (nextOf (step (State.reset.withFetchWord 16 0x0138))).bind State.result = some 0x6CC8 ∧
    traceAfter (step (State.reset.withFetchWord 16 0x0800)) = some (burst zeroBuffer) ∧
    wordsAfter (step (State.reset.withFetchWord 16 0x0601)) = some [0x0004, 0x0004, 0x0004, 0x0004] := by decide

/-! ### The constants (`30_encoding.md` R61 to R63) -/

theorem test_mask_values :
    mask = 0x6FCB ∧ controlBits = 0x9034 ∧ segmentFlags = 0x6EC8 ∧ List.ofFn dsel = [0x8000, 0x1000, 0x0010, 0x0020] := by
  decide

/-! ### ENCODE (V1) -/

theorem test_encode_character_and_integer :
    resultAfter (exec (.encode 0x72) State.reset) = some 0x0840 ∧
    resultAfter (exec (.encode 0x0F) State.reset) = some 0x6840 := by decide

theorem test_encode_unlisted :
    [0x61, 0x62, 0x47, 0x4E, 0x5F, 0x3B, 0x10, 0x1F, 0x7F, 0x80, 0xFF].map
      (fun c => resultAfter (exec (.encode c) State.reset)) = List.replicate 11 (some 0x0000) := by decide

/-! ### CLEAR and SETUP (V2) -/

theorem test_clear : wordsAfter (exec .clear showing1234) = some [0x0000, 0x0000, 0x0000, 0x0000] := by decide

theorem test_clear_emits_nothing : traceAfter (exec .clear showing1234) = some [] := by decide

theorem test_setup_trace :
    traceAfter (exec .setup showing1234) =
      some [.configure .data, .configure .latch, .configure .clock,
        .latchLow, .shiftOut8 0x00, .shiftOut8 0x00, .latchHigh, .latchLow, .shiftOut8 0x00, .shiftOut8 0x00, .latchHigh,
        .latchLow, .shiftOut8 0x00, .shiftOut8 0x00, .latchHigh, .latchLow, .shiftOut8 0x00, .shiftOut8 0x00, .latchHigh] := by
  decide

theorem test_setup_state :
    (nextOf (exec .setup State.reset)).map (fun t => (bufferWords t.buf, t.cfg, t.lines)) =
      some ([0x0000, 0x0000, 0x0000, 0x0000], true,
        { data := some false, clock := some false, latch := some true }) := by decide

/-! ### DISPLAY_RAW (V3) -/

theorem test_displayRaw_all_ones :
    wordsAfter (exec (.displayRaw 0xFFFF 0xFFFF 0xFFFF 0xFFFF false) State.reset) =
      some [0xEFCB, 0x7FCB, 0x6FDB, 0x6FEB] := by decide

theorem test_displayRaw_order :
    wordsAfter (exec (.displayRaw 0x0103 0x8000 0x0004 0x6EC8 false) State.reset) =
      some [0x8103, 0x1000, 0x0010, 0x6EE8] := by decide

/-! ### COLON (V4) -/

theorem test_colon_on :
    wordsAfter (exec (.colon true) (stateWith 0x8088 0x5C48 0x0014 0x44E8 true)) =
      some [0x808C, 0x5C4C, 0x0014, 0x44EC] := by decide

theorem test_colon_off :
    wordsAfter (exec (.colon false) (stateWith 0x808C 0x108C 0x009C 0x00AC true)) =
      some [0x8088, 0x1088, 0x0098, 0x00A8] := by decide

/-! ### DISPLAY_DEC (V5) -/

theorem test_displayDec_in_range :
    wordsAfter (exec (.displayDec 9 10) State.reset) = some [0xEC88, 0x74C8, 0x0098, 0x6CA8] := by decide

theorem test_displayDec_out_of_range :
    wordsAfter (exec (.displayDec 100 99) State.reset) = some [0xEC40, 0x7C40, 0x64D8, 0x64E8] := by decide

/-! ### DISPLAY_HEX (V6) -/

theorem test_displayHex_letters :
    wordsAfter (exec (.displayHex 0x9A 0x5E) State.reset) = some [0xE4C8, 0x78C8, 0x64D0, 0x6C60] := by decide

theorem test_displayHex_high_bit :
    wordsAfter (exec (.displayHex 0x80 0x7F) State.reset) = some [0xECC8, 0x7C88, 0x4098, 0x6860] := by decide

/-! ### DISPLAY_TEXT (V7) -/

/-- The texts "8.8.8.8.", "12:34" and "..5". -/
theorem test_displayText_words :
    [[0x38, 0x2E, 0x38, 0x2E, 0x38, 0x2E, 0x38, 0x2E], [0x31, 0x32, 0x3A, 0x33, 0x34], [0x2E, 0x2E, 0x35]].map
        (fun text => wordsAfter (exec (.displayText text) showing1234)) =
      [some [0xEEC8, 0x7EC8, 0x6ED8, 0x6CE8], some [0x8088, 0x5C48, 0x0014, 0x44E8],
        some [0xE6C0, 0x1000, 0x0010, 0x0020]] := by decide

/-- The text "12\x00" is refused; under the two other policies it gives the words V7 names. -/
theorem test_displayText_nul :
    exec (.displayText [0x31, 0x32, 0x00]) showing1234 = .refused .textNulReached ∧
    wordsAfter (displayTextWith .terminate [0x31, 0x32, 0x00] showing1234) = some [0x8088, 0x5C48, 0x0010, 0x0020] ∧
    wordsAfter (displayTextWith .ordinary [0x31, 0x32, 0x00] showing1234) = some [0x8088, 0x5C48, 0x6C98, 0x0020] := by
  refine ⟨rfl, ?_, ?_⟩ <;> decide

/-! ### REFRESH and TRANSMIT (V8) -/

theorem test_refresh_bytes :
    ((nextOf (exec .refresh (stateWith 0x8040 0x56C8 0x0098 0x20E8 true))).map fun t => shiftedBytes t.trace) =
      some [0x80, 0x40, 0x56, 0xC8, 0x00, 0x98, 0x20, 0xE8] := by decide

/-- TRANSMIT 0x56C8: the 16 bits presented on DATA, 50 line writes, and the levels afterwards. -/
theorem test_transmit :
    dataLevels (lineTrace (transmit 0x56C8 showing1234).trace) =
      [false, true, false, true, false, true, true, false, true, true, false, false, true, false, false, false] ∧
    (lineTrace (transmit 0x56C8 showing1234).trace).length = 50 ∧
    (transmit 0x56C8 showing1234).lines = { data := some false, clock := some false, latch := some true } := by decide

/-! ### Witnesses of the obligations' hypotheses, one theorem an obligation -/

theorem witness_ConstructionStartsInvisible :
    let p : PinConfig := { data := 11, latch := 8, clock := 12 }
    p.data ≠ p.latch ∧ p.data ≠ p.clock ∧ p.latch ≠ p.clock := by decide

/-- Each of the three ways two identifiers can be equal, alone and all together. -/
theorem witness_EqualPinsAreRefused :
    ∀ p ∈ ([⟨1, 1, 2⟩, ⟨1, 2, 1⟩, ⟨2, 1, 1⟩, ⟨3, 3, 3⟩] : List PinConfig),
      p.data = p.latch ∨ p.data = p.clock ∨ p.latch = p.clock := by decide

/-- The first code that is no key, the last byte and a code beyond the bytes. -/
theorem witness_EncoderTableEntries :
    ∀ c ∈ [0x10, 0xFF, 0x100], isKey c = false := by decide

theorem witness_EncoderIsDualKeyed : (0 : Nat) < 16 ∧ (15 : Nat) < 16 := by decide

theorem witness_UnlistedCodesAreBlank :
    isKey 0x3B = false ∧ isKey 0x100 = false ∧ isKey (0x61 : Byte).toNat = false ∧ isKey (0xFF : Byte).toNat = false := by
  decide

theorem witness_EncoderResultsAreConfined : (0x39 : Nat) ≠ 0x3A ∧ (0x3B : Nat) ≠ 0x3A := by decide

theorem witness_SetupOrderShowsOnlyInTheTrace : [Line.clock, .data, .latch].Perm [.data, .latch, .clock] := by decide

/-- Both readings of MASK (`92_eei_decisions.md` D6). -/
theorem witness_RawMasksCannotForgeControlBits :
    (0x6FCB : Word) &&& 0x9034 = 0 ∧ (0x6EC8 : Word) &&& 0x9034 = 0 := by decide

theorem witness_ColonChangesOnlyTheColonBit :
    (0 : Nat) < 16 ∧ (2 : Nat) < 16 ∧ (15 : Nat) < 16 ∧
    bufferWords showing1234.buf = [0x8088, 0x5C48, 0x44D8, 0x20E8] := by decide

/-- Just inside and just outside the range of two digits. -/
theorem witness_DisplayDecRendersTwoDecimals :
    (100 : Byte).toNat > 99 ∧ (255 : Byte).toNat > 99 ∧ ¬ (99 : Byte).toNat > 99 ∧ ¬ (0 : Byte).toNat > 99 := by decide

theorem witness_DecimalSentinel : 99 < (100 : Byte).toNat ∧ 99 < (255 : Byte).toNat := by decide

theorem witness_LeadingZerosAreShown : (0 : Byte).toNat < 10 ∧ (9 : Byte).toNat < 10 := by decide

theorem witness_DecimalHexAndTextAgree : (0 : Byte).toNat ≤ 99 ∧ (99 : Byte).toNat ≤ 99 := by decide

/-- Texts in which no 0x00 is reached: the empty one, one with a 0x00 past the fourth digit, and one of 256
codes, more than a command word carries. -/
theorem witness_DisplayTextRendersText :
    reachesNul [] = false ∧ reachesNul [0x31, 0x32, 0x33, 0x34, 0x00] = false ∧
    reachesNul (0x2E :: ones 255) = false := by decide +kernel

/-- A 0x00 at the first cursor and at the last. -/
theorem witness_ReachedNulIsRefused :
    reachesNul [0x00] = true ∧ reachesNul [0x31, 0x32, 0x33, 0x2E, 0x00] = true := by decide

theorem witness_OtherNulPolicies : (0x00 : Byte) ∉ ([0x31, 0x2E, 0x32] : List Byte) := by decide

/-- Clause 1 with the cursor exactly at 4 and a text beyond; clause 2 with a state whose word 3 has DP, which DISPLAY_RAW
puts there. -/
theorem witness_TextPastTheFourthDigitIsDropped :
    4 ≤ cursorAt [0x31, 0x2E, 0x32, 0x33, 0x34] 5 ∧ 4 ≤ cursorAt (ones 6) 6 ∧
    (∃ t, exec (.colon true) (stateWith 0x8200 0x1200 0x0210 0x0220 true) = .next t ∧
      (∀ m1 m2 m3 m4 c, Instr.colon true ≠ .displayRaw m1 m2 m3 m4 c) ∧ t.buf.get 3 &&& 0x0200 ≠ 0) :=
  ⟨by decide, by decide, _, rfl, fun _ _ _ _ _ => Instr.noConfusion, by decide⟩

theorem witness_LeadingPointJoinsTheFirstDigit : (0x35 : Byte) ≠ 0x2E ∧ (0x00 : Byte) ≠ 0x2E := by decide

/-- "12" leaves words 2 and 3, "." leaves all but word 0. -/
theorem witness_ShortTextLeavesDigitsBlank :
    reachesNul [0x31, 0x32] = false ∧ (2 : Fin 4) ≠ 0 ∧ cursorAt [0x31, 0x32] 2 ≤ (2 : Fin 4).val ∧
    reachesNul [0x2E] = false ∧ (1 : Fin 4) ≠ 0 ∧ cursorAt [0x2E] 1 ≤ (1 : Fin 4).val := by decide

/-- Each display operation completes, and "12:34" sets the colon bit of word 2. -/
theorem witness_DisplayedWordsAddressTheirDigit :
    (∃ t, isDisplay (.displayRaw 0xFFFF 0 0 0 true) = true ∧
      exec (.displayRaw 0xFFFF 0 0 0 true) State.reset = .next t) ∧
    (∃ t, isDisplay (.displayDec 12 100) = true ∧ exec (.displayDec 12 100) State.reset = .next t ∧
      ∀ m1 m2 m3 m4 c, Instr.displayDec 12 100 ≠ .displayRaw m1 m2 m3 m4 c) ∧
    (∃ t, isDisplay (.displayHex 0xAB 0xCD) = true ∧ exec (.displayHex 0xAB 0xCD) State.reset = .next t) ∧
    (∃ t, isDisplay (.displayText [0x31, 0x32, 0x3A]) = true ∧
      exec (.displayText [0x31, 0x32, 0x3A]) State.reset = .next t ∧ t.buf.get 2 &&& 0x0004 ≠ 0) :=
  ⟨⟨_, rfl, rfl⟩, ⟨_, rfl, rfl, fun _ _ _ _ _ => Instr.noConfusion⟩, ⟨_, rfl, rfl⟩, ⟨_, rfl, rfl, by decide⟩⟩

theorem witness_WholeAssignmentsForgetTheBuffer :
    ∀ i ∈ [Instr.clear, .setup, .displayRaw 0 0 0 0 true, .displayDec 1 2, .displayHex 1 2, .displayText [0x31]],
      assignsWholeBuffer i = true := by decide

theorem witness_RefreshSendsTheBuffer :
    showing1234.cfg = true ∧ State.reset.cfg = false ∧
    bufferWords showing1234.buf = [0x8088, 0x5C48, 0x44D8, 0x20E8] := by decide

/-- Two states with different traces, CFG and lines, and one buffer. -/
theorem witness_BurstDeterminesTheBuffer :
    let s := stateWith 0x8088 0x5C48 0x44D8 0x20E8 false
    ∃ t t', exec .refresh s = .next t ∧ exec .refresh (emit .latchHigh showing1234) = .next t' ∧
      t.trace = s.trace ++ burst s.buf ∧ t'.trace = (emit .latchHigh showing1234).trace ++ burst s.buf :=
  ⟨_, _, rfl, rfl, by decide, by decide⟩

/-- A receiver that has seen no clock and one whose clock is low. -/
theorem witness_ReceiverLatchesEachWord :
    let fresh : Receiver 16 := { sr := 0xBEEF, out := 0x1234, data := true, clock := none }
    let idle : Receiver 16 := { fresh with clock := some false }
    showing1234.cfg = true ∧ fresh.clock ≠ some true ∧ idle.clock ≠ some true := by decide

theorem witness_StepRunsTheDecodedCommand :
    decode (sent [0x06, 0x01, 0x08, 0x00]).input = .instr (.colon true) [0x08, 0x00] ∧
    decode (sent [0x07, 0x01, 0x00]).input = .instr (.displayText [0x00]) [] ∧ State.reset.input.length < 2 ∧
    (sent [0x06]).input.length < 2 := by decide

/-- The shortest and the longest text that has a command word, and an operation without a payload. -/
theorem witness_DecodeOfEncodeIsTheOperation :
    (Instr.displayText []).wf = true ∧ (Instr.displayText (ones 255)).wf = true ∧ Instr.refresh.wf = true :=
  ⟨rfl, test_wf_accepts_text_of_255, rfl⟩

theorem witness_DecodedBytesAreTheEncoding :
    decode [0x04, 0x01, 1, 2, 3, 4, 5, 6, 7, 8, 9] = .instr (.displayRaw 0x0102 0x0304 0x0506 0x0708 true) [9] := by decide

/-- Each group of reserved headers at the ends of its range, and the neighbours that are not reserved. -/
theorem witness_ReservedHeadersAreRefused :
    isReserved 0x00 0x00 = true ∧ isReserved 0x09 0x00 = true ∧ isReserved 0xFF 0xFF = true ∧
    isReserved 0x02 0x01 = true ∧ isReserved 0x03 0xFF = true ∧ isReserved 0x08 0x01 = true ∧
    isReserved 0x04 0x02 = true ∧ isReserved 0x06 0x02 = true ∧ isReserved 0x05 0x02 = true ∧
    isReserved 0x01 0x00 = false ∧ isReserved 0x05 0x01 = false ∧ isReserved 0x08 0x00 = false := by decide

/-- Payloads one byte short of what the header demands, and a step refused for one. -/
theorem witness_ShortCommandsAreRefused :
    decode [0x05, 0x01, 1, 2, 3] = .instr (.displayHex 1 2) [3] ∧
    (List.replicate 7 (0x00 : Byte)).length < 8 ∧ ([0x00] : List Byte).length < 2 ∧
    (ones 254).length < (0xFF : Byte).toNat ∧ ([] : List Byte).length < (0x01 : Byte).toNat ∧
    step (sent [0x04, 0x00, 1, 2, 3, 4, 5, 6, 7]) = .refused .shortPayload :=
  ⟨by decide, by decide, by decide, by rw [ones, List.length_replicate]; decide, by decide, rfl⟩

/-- An operation of each kind the clauses name completes. -/
theorem witness_OnlySetupAndRefreshReachTheLines :
    (∃ t, exec .setup State.reset = .next t) ∧ (∃ t, exec .refresh State.reset = .next t) ∧
    (∃ t, exec (.encode 0x00) State.reset = .next t) ∧
    (∃ t, exec .clear State.reset = .next t ∧ Instr.clear ≠ .setup ∧ Instr.clear ≠ .refresh) :=
  ⟨⟨_, rfl⟩, ⟨_, rfl⟩, ⟨_, rfl⟩, _, rfl, Instr.noConfusion, Instr.noConfusion⟩

/-- A step that sets CFG, and one from a state in which it is set. -/
theorem witness_StepKeepsPinsConfigurationAndTrace :
    (∃ t, step (sent [0x03, 0x00]) = .next t ∧ (sent [0x03, 0x00]).cfg = false ∧ t.cfg = true) ∧
    (∃ t, step (showing1234.setInput [0x02, 0x00]) = .next t ∧ showing1234.cfg = true) :=
  ⟨⟨_, rfl, by decide, by decide⟩, _, rfl, by decide⟩

/-- The instance after SETUP, about to run REFRESH. -/
def afterSetup : State := (setupWith Config.configureOrder State.reset).setInput [0x08, 0x00]

theorem witness_StepKeepsTheMachineInvariant : MachineInv afterSetup ∧ ∃ t, step afterSetup = .next t :=
  ⟨{ select := (by decide : ∀ k : Fin 4, afterSetup.buf.get k &&& 0x9030 = 0 ∨ afterSetup.buf.get k &&& 0x9030 = dsel k)
     pins := by decide
     shape := .setup [] _ .empty (List.Perm.refl _)
     replayed := by decide
     rest := ⟨fun h => absurd h (by decide), fun _ => by decide⟩ }, _, rfl⟩

/-- Reached by construction, an operation in its abstract form, bytes sent and a step. -/
theorem witness_ReachableStatesMeetTheInvariant :
    ∃ t, step ((State.reset.setResult none).setInput [0x08, 0x00]) = .next t ∧ Reachable Config.pins t := by
  have built : Reachable Config.pins State.reset := .constructed _ rfl
  have cleared : Reachable Config.pins (State.reset.setResult none) := .issued _ _ .clear built rfl
  exact ⟨_, rfl, .stepped _ _ (.sent _ [0x08, 0x00] cleared) rfl⟩

theorem witness_TracesOfASequenceConcatenate :
    (∃ t, runOps [.setup, .colon true] State.reset = .next t) ∧
    (∃ t, runOps [.clear, .refresh] { emit .latchHigh showing1234 with trace := [] } = .next t) :=
  ⟨⟨_, rfl⟩, _, rfl⟩

/-- One buffer under different pins, CFG, lines, traces and results. -/
theorem witness_OutputDependsOnTheBufferAlone :
    let s := emit .latchHigh (showing1234.setResult (some 0x6CC8))
    let s' := (State.fresh { data := 7, latch := 8, clock := 9 }).setBuf s.buf
    s.buf = s'.buf ∧ ∃ t, exec .refresh s = .next t :=
  ⟨rfl, _, rfl⟩

theorem witness_PrimitiveCallsNameTheirOwnPins : ∃ t, exec .setup showing1234 = .next t := ⟨_, rfl⟩

/-- Two instances on six lines, two that share a line, and an operation on the second of two. -/
theorem witness_InstancesAreIndependent :
    let apart : List PinConfig := [⟨0, 1, 2⟩, ⟨3, 4, 5⟩]
    let sharing : List PinConfig := [⟨0, 1, 2⟩, ⟨3, 4, 0⟩]
    let sys : System := { instances := [State.reset, showing1234] }
    (∀ p ∈ apart, pinsDistinct p = true) ∧ (apart.flatMap pinIds).Nodup ∧
    (∀ p ∈ sharing, pinsDistinct p = true) ∧ ¬ (sharing.flatMap pinIds).Nodup ∧
    ∃ t, exec .clear (sys.instances.get ⟨1, by decide⟩) = .next t :=
  ⟨by decide, by decide, by decide, by decide, _, rfl⟩

/-- Each refusal of the closed list occurs. -/
theorem witness_RefusalsAreTheClosedList :
    step (sent [0x05, 0x02, 0x01, 0x02]) = .refused .reservedHeader ∧
    step (sent [0x05, 0x01, 0x01]) = .refused .shortPayload ∧
    step (sent [0x07, 0x03, 0x41, 0x00, 0x42]) = .refused .textNulReached ∧
    construct ⟨1, 1, 2⟩ = .refused .pinsNotDistinct ∧
    constructSystem [⟨0, 1, 2⟩, ⟨3, 4, 0⟩] = .refused .sharedLine := ⟨rfl, rfl, rfl, rfl, rfl⟩

end Sys2Proof.Tests
end

section
/-! The text walk under the spec's refusal policy: where it is refused, in the closed form of `reachesNul`. -/

namespace Sys2Proof.Machine

@[simp] theorem cursorAt_zero (text : List Byte) : cursorAt text 0 = 0 := by simp [cursorAt]

/-- The first character moves the cursor by one, unless it is a point (`43_formatter_text.md` R145). -/
theorem cursorAt_cons_succ (c : Byte) (rest : List Byte) (p : Nat) :
    cursorAt (c :: rest) (p + 1) = (if isPoint c then 0 else 1) + cursorAt rest p := by
  cases h : isPoint c
  · simp [cursorAt, h, Nat.add_comm]
  · simp [cursorAt, h]

/-- The walk that starts with its cursor at `i` reaches a code 0x00: `reachesNul` generalised to any cursor. -/
def ReachesNulFrom (i : Nat) (text : List Byte) : Prop :=
  ∃ p, p < text.length ∧ i + cursorAt text p < 4 ∧ text.getD p 0x00 = 0x00

theorem reachesNul_iff (text : List Byte) : reachesNul text = true ↔ ReachesNulFrom 0 text := by
  simp only [reachesNul, walkReaches, ReachesNulFrom, List.any_eq_true, List.mem_range, Bool.and_eq_true,
    decide_eq_true_eq, beq_iff_eq, Nat.zero_add]
  exact exists_congr fun p => by tauto

theorem not_reachesNulFrom_nil (i : Nat) : ¬ ReachesNulFrom i [] := by simp [ReachesNulFrom]

theorem ReachesNulFrom.cursor_lt {i : Nat} {text : List Byte} (h : ReachesNulFrom i text) : i < 4 := by
  obtain ⟨p, -, cursor, -⟩ := h
  omega

/-- One turn of the walk: the 0x00 stands here, or the rest reaches one from the cursor after this character. -/
theorem reachesNulFrom_cons {i : Nat} (h : i < 4) (c : Byte) (rest : List Byte) :
    ReachesNulFrom i (c :: rest) ↔ c = 0x00 ∨ ReachesNulFrom (i + if isPoint c then 0 else 1) rest := by
  unfold ReachesNulFrom
  rw [← Nat.or_exists_add_one]
  simp [cursorAt_cons_succ, h, Nat.add_assoc]

/-- The walk is refused exactly where it reaches a code 0x00 (`43_formatter_text.md` R152). -/
theorem textWalk_refuse_eq_none_iff (text : List Byte) (i : Nat) (b : DigitBuffer) :
    textWalk .refuse text i b = none ↔ ReachesNulFrom i text := by
  induction text generalizing i b with
  | nil => simp [not_reachesNulFrom_nil]
  | cons c rest ih =>
    by_cases hi : i < 4
    · rw [reachesNulFrom_cons hi]
      by_cases point : c = charPoint
      · subst point
        rw [textWalk_point _ _ _ hi, ih]
        simp [isPoint, charPoint]
      · by_cases nul : c = 0x00
        · subst nul
          exact iff_of_true (textWalk_nul _ _ _ hi) (.inl rfl)
        · have notPoint : isPoint c = false := by simpa [isPoint, charPoint] using point
          rw [textWalk_glyph _ _ _ hi point nul, ih, notPoint]
          exact (or_iff_right nul).symm
    · rw [textWalk_full _ _ (Nat.not_lt.mp hi)]
      simpa using fun reached => hi (ReachesNulFrom.cursor_lt reached)

/-- DISPLAY_TEXT is refused where its walk reaches a code 0x00 (`43_formatter_text.md` R152). -/
theorem exec_displayText_of_reachesNul {text : List Byte} (h : reachesNul text = true) (s : State) :
    exec (.displayText text) s = .refused .textNulReached := by
  have refused : textWalk .refuse text 0 (DigitBuffer.ofFn dsel) = none :=
    (textWalk_refuse_eq_none_iff _ _ _).mpr ((reachesNul_iff text).mp h)
  simp only [exec, execDisplayText, displayTextWith, Config.textNulPolicy, refused]

/-- Every other DISPLAY_TEXT completes, with the buffer its walk leaves (`43_formatter_text.md` R145). -/
theorem exec_displayText_of_not_reachesNul {text : List Byte} (h : reachesNul text = false) (s : State) :
    ∃ b, textWalk .refuse text 0 (DigitBuffer.ofFn dsel) = some b ∧
      exec (.displayText text) s = .next ((s.setBuf b).setResult none) := by
  have completes : textWalk .refuse text 0 (DigitBuffer.ofFn dsel) ≠ none := by
    rw [Ne, textWalk_refuse_eq_none_iff, ← reachesNul_iff, h]
    exact Bool.false_ne_true
  obtain ⟨b, walk⟩ := Option.ne_none_iff_exists'.mp completes
  refine ⟨b, walk, ?_⟩
  simp only [exec, execDisplayText, displayTextWith, Config.textNulPolicy, walk, finish]

/-- Settles O45: eight of the nine operations complete outright, and DISPLAY_TEXT is refused exactly where its walk
reaches a code 0x00. -/
theorem onlyAReachedNulIsRefused : Obligations.OnlyAReachedNulIsRefused := by
  intro i s
  cases i with
  | displayText text =>
    cases h : reachesNul text with
    | true => exact .inr ⟨exec_displayText_of_reachesNul h s, text, rfl, h⟩
    | false =>
      obtain ⟨b, -, completes⟩ := exec_displayText_of_not_reachesNul h s
      exact .inl ⟨_, completes⟩
  | _ => exact .inl ⟨_, rfl⟩

end Sys2Proof.Machine
end

section
/-! One step from what the decoder finds at the head of the host's bytes. -/

namespace Sys2Proof.Machine

/-- A decoded command is taken from the input and run (`30_encoding.md` R71). -/
theorem step_of_decode_instr {s : State} {i : Instr} {rest : List Byte} (h : decode s.input = .instr i rest) :
    step s = exec i (s.setInput rest) := by
  simp only [step, fetch, h]

/-- With no command sent the block holds its state (`60_exceptions.md` R199). -/
theorem step_of_decode_noHeader {s : State} (h : decode s.input = .noHeader) : step s = .next s := by
  simp only [step, fetch, h]

/-- Settles O38: a step goes by what its fetch decodes, and fewer than two bytes decode to no header. -/
theorem stepRunsTheDecodedCommand : Obligations.StepRunsTheDecodedCommand :=
  ⟨fun _ _ _ decoded => step_of_decode_instr decoded,
    fun _ short => step_of_decode_noHeader ((decode_eq_noHeader_iff _).mpr short)⟩

end Sys2Proof.Machine
end

section
/-! What one operation adds to the trace and does to CFG, the lines and the rest of the state, from its inversion
`exec_cases`: the access matrix of `10_state.md` R37. -/

namespace Sys2Proof.Machine

/-- The L1 events an operation emits from a buffer: only SETUP and REFRESH emit any (`44_transceiver.md` R164). -/
def emitted (i : Instr) (b : DigitBuffer) : List Event :=
  if i = .setup then Config.configureOrder.map Event.configure ++ burst zeroBuffer
  else if i = .refresh then burst b
  else []

/-- The four kinds of operation by what they can reach: ENCODE the result, SETUP and REFRESH the lines, every other
operation the buffer. -/
theorem exec_kinds {i : Instr} {s t : State} (h : exec i s = .next t) :
    (∃ c, i = .encode c ∧ t = s.setResult (some (lut c.toNat))) ∨
    (i = .setup ∧ t = (setupWith Config.configureOrder s).setResult none) ∨
    (i = .refresh ∧ t = (refresh s).setResult none) ∨
    ((∀ c, i ≠ .encode c) ∧ i ≠ .setup ∧ i ≠ .refresh ∧ ∃ b, t = (s.setBuf b).setResult none) := by
  obtain encode | ⟨rfl, rfl⟩ | setup | ⟨_, _, _, _, _, rfl, rfl⟩ | ⟨_, _, rfl, rfl⟩ | ⟨_, _, rfl, rfl⟩ |
    ⟨_, rfl, rfl⟩ | ⟨_, _, rfl, -, rfl⟩ | refresh := exec_cases h
  on_goal 1 => exact .inl encode
  on_goal 2 => exact .inr <| .inl setup
  on_goal 7 => exact .inr <| .inr <| .inl refresh
  all_goals exact .inr <| .inr <| .inr ⟨nofun, nofun, nofun, _, rfl⟩

section
variable {i : Instr} {s t : State} (h : exec i s = .next t)
include h

/-- No operation changes the pins (`10_state.md` R25). -/
theorem exec_pins : t.pins = s.pins := by
  obtain ⟨_, -, rfl⟩ | ⟨-, rfl⟩ | ⟨-, rfl⟩ | ⟨-, -, -, _, rfl⟩ := exec_kinds h <;> simp [setupWith_eq]

/-- No operation reads or takes the host's bytes. -/
theorem exec_input : t.input = s.input := by
  obtain ⟨_, -, rfl⟩ | ⟨-, rfl⟩ | ⟨-, rfl⟩ | ⟨-, -, -, _, rfl⟩ := exec_kinds h <;> simp [setupWith_eq]

/-- SETUP sets CFG and every other operation keeps it (`10_state.md` R26). -/
theorem exec_cfg : t.cfg = if i = .setup then true else s.cfg := by
  obtain ⟨_, rfl, rfl⟩ | ⟨rfl, rfl⟩ | ⟨rfl, rfl⟩ | ⟨-, notSetup, -, _, rfl⟩ := exec_kinds h
  · simp
  · simp [setupWith_eq]
  · simp
  · simp [notSetup]

/-- An operation appends the events it emits to the trace (`20_memory.md` R49). -/
theorem exec_trace : t.trace = s.trace ++ emitted i s.buf := by
  obtain ⟨_, rfl, rfl⟩ | ⟨rfl, rfl⟩ | ⟨rfl, rfl⟩ | ⟨-, notSetup, notRefresh, _, rfl⟩ := exec_kinds h
  · simp [emitted]
  · simp [emitted, setupWith_eq]
  · simp [emitted, refresh_burst]
  · simp [emitted, notSetup, notRefresh]

/-- Only SETUP and REFRESH drive the lines (`10_state.md` R37). -/
theorem exec_lines (notSetup : i ≠ .setup) (notRefresh : i ≠ .refresh) : t.lines = s.lines := by
  obtain ⟨_, -, rfl⟩ | ⟨setup, -⟩ | ⟨refresh, -⟩ | ⟨-, -, -, _, rfl⟩ := exec_kinds h
  · rfl
  · exact absurd setup notSetup
  · exact absurd refresh notRefresh
  · rfl

/-- ENCODE and REFRESH leave the buffer alone (`40_segment_encoder.md` R97, `44_transceiver.md` R161). -/
theorem exec_buf (reads : i = .refresh ∨ ∃ c, i = .encode c) : t.buf = s.buf := by
  obtain ⟨_, -, rfl⟩ | ⟨rfl, -⟩ | ⟨-, rfl⟩ | ⟨notEncode, -, notRefresh, -⟩ := exec_kinds h
  · rfl
  · simp at reads
  · simp
  · simp [notEncode, notRefresh] at reads

/-- Only ENCODE returns a result (`00_scope.md` R8). -/
theorem exec_result : t.result ≠ none ↔ ∃ c, i = .encode c := by
  obtain ⟨_, rfl, rfl⟩ | ⟨rfl, rfl⟩ | ⟨rfl, rfl⟩ | ⟨notEncode, -, -, _, rfl⟩ := exec_kinds h
  · simp
  · simp
  · simp
  · simp [notEncode]

end

/-- Settles O46: the access matrix, column by column. -/
theorem onlySetupAndRefreshReachTheLines : Obligations.OnlySetupAndRefreshReachTheLines := by
  intro i s t h
  refine ⟨exec_pins h, exec_input h, fun notSetup notRefresh => ⟨?_, exec_lines h notSetup notRefresh⟩,
    fun notSetup => ?_, exec_buf h, exec_result h⟩
  · simpa [emitted, notSetup, notRefresh] using exec_trace h
  · simpa [notSetup] using exec_cfg h

/-- Settles O47: a step holds its state or runs one decoded operation, which keeps the pins, keeps CFG unless it is
SETUP, and appends to the trace. -/
theorem stepKeepsPinsConfigurationAndTrace : Obligations.StepKeepsPinsConfigurationAndTrace := by
  intro s t h
  obtain ⟨-, rfl⟩ | ⟨i, rest, decoded, run⟩ := step_cases h
  · exact ⟨rfl, id, ⟨[], List.append_nil _⟩, fun unset set => by simp [unset] at set⟩
  · have cfg := exec_cfg run
    refine ⟨(exec_pins run :), fun set => by simp [cfg, set], ⟨_, (exec_trace run).symm⟩, fun unset set => ⟨rest, ?_⟩⟩
    have setup : i = .setup := by simpa [set, unset] using cfg
    rw [decoded, setup]

/-- An event calls only on the lines of the driver that emitted it (`44_transceiver.md` R164). -/
theorem Event.namesOwnPins_pinCall (p : PinConfig) (e : Event) : namesOwnPins p (e.pinCall p) := by
  cases e with
  | configure l => cases l <;> simp [Event.pinCall, namesOwnPins, pinOf]
  | latchLow => rfl
  | shiftOut8 b => exact ⟨rfl, rfl⟩
  | latchHigh => rfl

/-- Settles O52: the calls an operation adds are the events it emits, addressed by the pins, which it keeps. -/
theorem primitiveCallsNameTheirOwnPins : Obligations.PrimitiveCallsNameTheirOwnPins := by
  intro i s t h
  refine ⟨(emitted i s.buf).map (Event.pinCall s.pins), ?_, ?_⟩
  · simp [pinCalls, exec_pins h, exec_trace h]
  · simpa using fun e _ => Event.namesOwnPins_pinCall s.pins e

/-- CLEAR writes the all-zero buffer (`41_controller_basic.md` R110). -/
theorem clear_eq (s : State) : clear s = s.setBuf zeroBuffer := rfl

/-- Whether an operation completes, the buffer it leaves and the result it returns depend on the buffer it finds
(`10_state.md` R20). -/
theorem exec_congr_buf {i : Instr} {s s' t : State} (same : s.buf = s'.buf) (h : exec i s = .next t) :
    ∃ t', exec i s' = .next t' ∧ t'.buf = t.buf ∧ t'.result = t.result := by
  obtain ⟨_, rfl, rfl⟩ | ⟨rfl, rfl⟩ | ⟨rfl, rfl⟩ | ⟨_, _, _, _, _, rfl, rfl⟩ | ⟨_, _, rfl, rfl⟩ | ⟨_, _, rfl, rfl⟩ |
    ⟨_, rfl, rfl⟩ | ⟨text, b, rfl, walk, rfl⟩ | ⟨rfl, rfl⟩ := exec_cases h
  on_goal 8 =>
    refine ⟨(s'.setBuf b).setResult none, ?_, rfl, rfl⟩
    simp only [exec, execDisplayText, displayTextWith, walk, finish]
  all_goals exact ⟨_, rfl, by simp [setupWith_eq, clear_eq, displayGlyphPairs, fillBuffer_eq, same], rfl⟩

/-- Settles O51: beside `exec_congr_buf`, the events emitted are a function of the operation and the buffer. -/
theorem outputDependsOnTheBufferAlone : Obligations.OutputDependsOnTheBufferAlone := by
  intro i s s' t same h
  obtain ⟨t', h', buf, result⟩ := exec_congr_buf same h
  exact ⟨t', emitted i s.buf, h', buf, result, exec_trace h, same ▸ exec_trace h'⟩

end Sys2Proof.Machine
end

section
/-! Which bits of a word the display operations set: the table and the walk under a mask that meets neither a segment nor
the point. -/

namespace Sys2Proof.Machine

/-! ### The table under a mask -/

/-- No entry of the table has a digit-select bit (`40_segment_encoder.md` R96). -/
theorem lut_and_select (c : Nat) : lut c &&& 0x9030 = 0 :=
  lut_induction (P := fun w => w &&& 0x9030 = 0) (by decide) (by decide) c

/-- No entry of the table has an unused bit (`40_segment_encoder.md` R96). -/
theorem lut_and_unused (c : Nat) : lut c &&& 0x0103 = 0 :=
  lut_induction (P := fun w => w &&& 0x0103 = 0) (by decide) (by decide) c

/-- The colon bit is the entry of ':' alone (`40_segment_encoder.md` R95). -/
theorem eq_colon_of_lut_and_colon {c : Nat} (h : lut c &&& 0x0004 ≠ 0) : c = 0x3A := by
  obtain zero | row := lut_zero_or_row c
  · simp [zero] at h
  · exact (by decide : ∀ r ∈ lutRows, r.2 &&& 0x0004 ≠ 0 → r.1 = 0x3A) _ row h

/-- An entry the two-value displays show: that of an integer key or of 'E'. -/
def IsNumeralGlyph (w : Word) : Prop := ∃ c, (c < 16 ∨ c = charE) ∧ w = lut c

/-- No numeral shows a colon or a decimal point (`42_formatter_numeric.md` R136). -/
theorem IsNumeralGlyph.and_point_colon {w : Word} (h : IsNumeralGlyph w) : w &&& 0x0204 = 0 := by
  obtain ⟨c, integer | rfl, rfl⟩ := h
  · exact (by decide : ∀ c < 16, lut c &&& 0x0204 = 0) c integer
  · decide

theorem decimalGlyphs_numeral (v : Byte) :
    IsNumeralGlyph (decimalGlyphs v).1 ∧ IsNumeralGlyph (decimalGlyphs v).2 := by
  by_cases h : v.toNat > decimalMax
  · simp only [decimalGlyphs, h, if_true]
    exact ⟨⟨_, .inr rfl, rfl⟩, ⟨_, .inr rfl, rfl⟩⟩
  · simp only [decimalGlyphs, h, if_false]
    simp only [decimalMax] at h
    exact ⟨⟨_, .inl (by omega), rfl⟩, ⟨_, .inl (by omega), rfl⟩⟩

theorem hexGlyphs_numeral (v : Byte) : IsNumeralGlyph (hexGlyphs v).1 ∧ IsNumeralGlyph (hexGlyphs v).2 :=
  have low : (v &&& 0xF).toNat ≤ 15 := by
    rw [BitVec.toNat_and]
    exact Nat.and_le_right
  ⟨⟨_, .inl (by bv_omega), rfl⟩, ⟨_, .inl (by omega), rfl⟩⟩

theorem pairSegments_numeral {glyphs : Byte → Word × Word}
    (h : ∀ v, IsNumeralGlyph (glyphs v).1 ∧ IsNumeralGlyph (glyphs v).2) (hi lo : Byte) (k : Fin 4) :
    IsNumeralGlyph (pairSegments glyphs hi lo k) := by
  match k with
  | 0 => exact (h hi).1
  | 1 => exact (h hi).2
  | 2 => exact (h lo).1
  | 3 => exact (h lo).2

/-! ### A composed word under a mask -/

theorem dsel_and_select (k : Fin 4) : dsel k &&& 0x9030 = dsel k := by
  revert k
  decide

theorem composeWord_and (k : Fin 4) (segments colon m : Word) :
    composeWord k segments colon &&& m = (dsel k &&& m) ||| (segments &&& m) ||| (colon &&& m) := by
  simp only [composeWord, BitVec.and_or_distrib_right]

/-- A word composed without a colon shows of its segments only what the mask lets through. -/
theorem composeWord_plain_and {segments m : Word} (h : segments &&& m = 0) (k : Fin 4) :
    composeWord k segments (colonBit false) &&& m = dsel k &&& m := by
  simp [composeWord_and, colonBit, h]

/-- The masks of a raw word cannot reach its digit-select bits (`41_controller_basic.md` R115). -/
theorem rawWord_and_select (k : Fin 4) (m : Word) (colon : Bool) : rawWord mask k m colon &&& 0x9030 = dsel k := by
  have segments : mask &&& m &&& 0x9030 = 0 := by
    have disjoint : mask &&& 0x9030 = 0#16 := by decide
    rw [BitVec.and_assoc, BitVec.and_comm m, ← BitVec.and_assoc, disjoint, BitVec.zero_and]
    rfl
  have colonOff : colonBit colon &&& 0x9030 = 0 := by
    cases colon <;> decide
  rw [rawWord, composeWord_and, segments, colonOff, dsel_and_select]
  simp

/-! ### The text walk under a mask -/

/-- ORing in a value the mask hides changes no word under the mask. -/
theorem DigitBuffer.orInto_get_and {v m : Word} (h : v &&& m = 0) (b : DigitBuffer) (k j : Fin 4) :
    (b.orInto k v).get j &&& m = b.get j &&& m := by
  rw [DigitBuffer.get_orInto]
  split
  · simp [BitVec.and_or_distrib_right, h]
  · rfl

/-- The walk leaves alone every bit that neither the point nor an entry of the table has. -/
theorem textWalk_get_and {m : Word} (point : DigitFlag.DP &&& m = 0) (entry : ∀ c, lut c &&& m = 0)
    {policy : TextNulPolicy} {text : List Byte} {i : Nat} {b b' : DigitBuffer}
    (h : textWalk policy text i b = some b') (k : Fin 4) : b'.get k &&& m = b.get k &&& m :=
  textWalk_preserves (P := fun w => w.get k &&& m = b.get k &&& m) policy
    (fun _ _ kept => (DigitBuffer.orInto_get_and point _ _ _).trans kept)
    (fun _ _ c _ kept => (DigitBuffer.orInto_get_and (entry c.toNat) _ _ _).trans kept) h rfl

/-- A walk whose cursor starts at `i` puts a ':' into word `k`. -/
def PutsColonFrom (i : Nat) (text : List Byte) (k : Nat) : Prop :=
  ∃ p, p < text.length ∧ text.getD p 0x00 = 0x3A ∧ i + cursorAt text p = k

/-- One turn of the walk: the ':' stands here, or the rest puts it from the cursor after this character. -/
theorem putsColonFrom_cons (i : Nat) (c : Byte) (rest : List Byte) (k : Nat) :
    PutsColonFrom i (c :: rest) k ↔
      (c = 0x3A ∧ i = k) ∨ PutsColonFrom (i + if isPoint c then 0 else 1) rest k := by
  unfold PutsColonFrom
  rw [← Nat.or_exists_add_one]
  simp [cursorAt_cons_succ, Nat.add_assoc]

/-- The walk sets a colon bit only where it puts a ':' (`43_formatter_text.md` R155). -/
theorem textWalk_colon {text : List Byte} {i : Nat} {b b' : DigitBuffer}
    (h : textWalk .refuse text i b = some b') (k : Fin 4) (set : b'.get k &&& 0x0004 ≠ 0) :
    b.get k &&& 0x0004 ≠ 0 ∨ PutsColonFrom i text k.val := by
  induction text generalizing i b with
  | nil => exact .inl (Option.some.inj h ▸ set)
  | cons c rest ih =>
    by_cases hi : i < 4
    · rw [putsColonFrom_cons]
      by_cases point : c = charPoint
      · subst point
        rw [textWalk_point _ _ _ hi] at h
        refine (ih h).imp (fun before => ?_) .inr
        rwa [DigitBuffer.orInto_get_and (by decide)] at before
      · by_cases nul : c = 0x00
        · subst nul
          rw [textWalk_nul _ _ _ hi] at h
          cases h
        · have notPoint : isPoint c = false := by simpa [isPoint, charPoint] using point
          rw [textWalk_glyph _ _ _ hi point nul] at h
          rw [notPoint]
          obtain before | later := ih h
          · by_cases colon : lut c.toNat &&& 0x0004 = 0
            · rw [DigitBuffer.orInto_get_and colon] at before
              exact .inl before
            · have isColon : c = 0x3A := BitVec.eq_of_toNat_eq (eq_colon_of_lut_and_colon colon)
              rw [DigitBuffer.get_orInto] at before
              split at before
              · exact .inr (.inl ⟨isColon, by simp [*]⟩)
              · exact .inl before
          · exact .inr (.inr later)
    · rw [textWalk_full _ _ (Nat.not_lt.mp hi)] at h
      exact .inl (Option.some.inj h ▸ set)

/-! ### The display operations -/

/-- A two-value display leaves in each word its digit-select flag and a numeral. -/
theorem exec_displayPair_get {i : Instr} {s t : State} {hi lo : Byte}
    (pair : i = .displayDec hi lo ∨ i = .displayHex hi lo) (h : exec i s = .next t) (k : Fin 4) :
    ∃ g, IsNumeralGlyph g ∧ t.buf.get k = composeWord k g (colonBit false) := by
  obtain rfl | rfl := pair
  · cases h
    exact ⟨_, pairSegments_numeral decimalGlyphs_numeral hi lo k, by simp [displayGlyphPairs, fillBuffer_eq]⟩
  · cases h
    exact ⟨_, pairSegments_numeral hexGlyphs_numeral hi lo k, by simp [displayGlyphPairs, fillBuffer_eq]⟩

/-- The buffer DISPLAY_TEXT leaves is the one its walk ends with. -/
theorem exec_displayText_walk {text : List Byte} {s t : State} (h : exec (.displayText text) s = .next t) :
    textWalk .refuse text 0 (DigitBuffer.ofFn dsel) = some t.buf := by
  obtain ⟨text', b, same, walk, rfl⟩ : ∃ text' b, Instr.displayText text = .displayText text' ∧
      textWalk Config.textNulPolicy text' 0 (DigitBuffer.ofFn dsel) = some b ∧ t = (s.setBuf b).setResult none := by
    simpa using exec_cases h
  cases same
  exact walk

/-- Under a mask that hides the point and the table, a display operation other than DISPLAY_RAW leaves the digit-select
flags. -/
theorem exec_display_get_and {m : Word} (point : DigitFlag.DP &&& m = 0) (entry : ∀ c, lut c &&& m = 0)
    {i : Instr} {s t : State} (display : isDisplay i = true)
    (notRaw : ∀ m1 m2 m3 m4 c, i ≠ .displayRaw m1 m2 m3 m4 c) (h : exec i s = .next t) (k : Fin 4) :
    t.buf.get k &&& m = dsel k &&& m := by
  have ofPair {hi lo : Byte} (pair : i = .displayDec hi lo ∨ i = .displayHex hi lo) :
      t.buf.get k &&& m = dsel k &&& m := by
    obtain ⟨_, ⟨c, -, rfl⟩, word⟩ := exec_displayPair_get pair h k
    rw [word, composeWord_plain_and (entry c)]
  cases i with
  | displayRaw m1 m2 m3 m4 c => exact absurd rfl (notRaw m1 m2 m3 m4 c)
  | displayDec hi lo => exact ofPair (.inl rfl)
  | displayHex hi lo => exact ofPair (.inr rfl)
  | displayText text => simpa using textWalk_get_and point entry (exec_displayText_walk h) k
  | _ => cases display

/-- After a display operation every word has exactly its own digit-select flag (`10_state.md` R34). -/
theorem exec_display_select {i : Instr} {s t : State} (display : isDisplay i = true) (h : exec i s = .next t)
    (k : Fin 4) : t.buf.get k &&& 0x9030 = dsel k := by
  by_cases raw : ∃ m1 m2 m3 m4 c, i = .displayRaw m1 m2 m3 m4 c
  · obtain ⟨m1, m2, m3, m4, c, rfl⟩ := raw
    have word : t.buf.get k = rawWord mask k (rawMask m1 m2 m3 m4 k) c := by
      cases h
      simp [fillBuffer_eq]
    rw [word, rawWord_and_select]
  · push Not at raw
    rw [exec_display_get_and (by decide) lut_and_select display raw h, dsel_and_select]

/-- Settles O31: the two clauses for every display are the mask lemma at the digit-select and at the unused bits; the
others are the numerals of the two-value displays and the colons of the walk. -/
theorem displayedWordsAddressTheirDigit : Obligations.DisplayedWordsAddressTheirDigit := by
  intro i s t display h k
  refine ⟨exec_display_select display h k, fun notRaw => ?_, fun hi lo pair => ?_, ?_⟩
  · rw [exec_display_get_and (by decide) lut_and_unused display notRaw h]
    exact (by decide : ∀ k, dsel k &&& 0x0103 = 0) k
  · obtain ⟨_, numeral, word⟩ := exec_displayPair_get pair h k
    rw [word, composeWord_plain_and numeral.and_point_colon]
    exact (by decide : ∀ k, dsel k &&& 0x0204 = 0) k
  · rintro text rfl set
    obtain start | ⟨p, inside, colon, cursor⟩ := textWalk_colon (exec_displayText_walk h) k set
    · rw [DigitBuffer.get_ofFn] at start
      exact absurd ((by decide : ∀ k, dsel k &&& 0x0004 = 0) k) start
    · rw [Nat.zero_add] at cursor
      exact ⟨p, by simp [walkReaches, inside, cursor], colon, cursor⟩

end Sys2Proof.Machine
end

section
/-! The invariant of one driver (`10_state.md` section 2, `44_transceiver.md` section 4): each of its clauses is kept
by every operation, and so by every step and in every state the host can reach. -/

namespace Sys2Proof.Machine

/-! ### The digit-select flags -/

theorem selectOk_zeroBuffer : SelectOk zeroBuffer := by
  unfold SelectOk
  decide

/-- COLON leaves the digit-select bits alone (`41_controller_basic.md` R116). -/
theorem withColon_and_select (enabled : Bool) (w : Word) : withColon enabled w &&& 0x9030 = w &&& 0x9030 := by
  cases enabled
  · have kept : ~~~DigitFlag.CC &&& 0x9030 = 0x9030#16 := by decide
    exact (BitVec.and_assoc _ _ _).trans (congrArg (w &&& ·) kept)
  · have off : DigitFlag.CC &&& 0x9030 = 0#16 := by decide
    rw [withColon, if_pos rfl, BitVec.and_or_distrib_right]
    exact (congrArg (_ ||| ·) off).trans BitVec.or_zero

theorem exec_selectOk {i : Instr} {s t : State} (h : exec i s = .next t) (ok : SelectOk s.buf) : SelectOk t.buf := by
  cases i with
  | encode c => exact exec_buf h (.inr ⟨c, rfl⟩) ▸ ok
  | refresh => exact exec_buf h (.inl rfl) ▸ ok
  | clear =>
    cases h
    exact selectOk_zeroBuffer
  | setup =>
    cases h
    simpa [setupWith_eq] using selectOk_zeroBuffer
  | colon e =>
    cases h
    intro k
    rw [State.setResult_buf, fillBuffer_eq, State.setBuf_buf, DigitBuffer.get_ofFn, withColon_and_select]
    exact ok k
  | _ => exact fun k => .inr (exec_display_select rfl h k)

/-! ### The trace, and what its replay determines -/

theorem TraceShape.append_emitted {es : List Event} (h : TraceShape es) (i : Instr) (b : DigitBuffer) :
    TraceShape (es ++ emitted i b) := by
  unfold emitted
  split
  · rw [← List.append_assoc]
    exact .setup _ _ h (List.Perm.refl _)
  · split
    · exact .refresh _ _ h
    · rwa [List.append_nil]

theorem replay_append (es fs : List Event) : replay (es ++ fs) = fs.foldl replayEvent (replay es) :=
  List.foldl_append

/-- Replaying a frame leaves CFG, and the lines where TRANSMIT leaves them (`44_transceiver.md` R167, R171). -/
theorem foldl_replayEvent_frame (w : Word) (c : Bool) (ls : Lines) :
    (frame w).foldl replayEvent (c, ls) =
      (c, if c then { data := some (w.getLsbD 0), clock := some false, latch := some true } else ls) := by
  cases c
  · rfl
  · have low : Event.lineWrites .latchLow = [{ line := .latch, level := false }] := rfl
    have high : Event.lineWrites .latchHigh = [{ line := .latch, level := true }] := rfl
    rw [frame, ← Word_high_eq, ← Word_low_eq]
    simp [replayEvent, shiftOut8_writes, low, high, Lines.write, Word.low]

/-- Replaying a burst leaves CFG, and the lines where REFRESH leaves them. -/
theorem foldl_replayEvent_burst (b : DigitBuffer) (c : Bool) (ls : Lines) :
    (burst b).foldl replayEvent (c, ls) =
      (c, if c then { data := some (b.w3.getLsbD 0), clock := some false, latch := some true } else ls) := by
  cases c <;> simp [burst, foldl_replayEvent_frame]

/-- Replaying the Configure events of a SETUP sets CFG and moves no line (`92_eei_decisions.md` D18). -/
theorem foldl_replayEvent_configure (c : Bool) (ls : Lines) :
    (Config.configureOrder.map Event.configure).foldl replayEvent (c, ls) = (true, ls) := rfl

/-- An operation takes CFG and the lines where the replay of the events it emits takes them. -/
theorem exec_replays {i : Instr} {s t : State} (h : exec i s = .next t) :
    (emitted i s.buf).foldl replayEvent (s.cfg, s.lines) = (t.cfg, t.lines) := by
  obtain ⟨_, rfl, rfl⟩ | ⟨rfl, rfl⟩ | ⟨rfl, rfl⟩ | ⟨-, notSetup, notRefresh, _, rfl⟩ := exec_kinds h
  · rfl
  · simp [emitted, foldl_replayEvent_configure, foldl_replayEvent_burst, setupWith_eq, zeroBuffer]
  · simp [emitted, foldl_replayEvent_burst, refresh_levels]
  · simp [emitted, notSetup, notRefresh]

/-! ### The lines between operations -/

theorem exec_linesAtRest {i : Instr} {s t : State} (h : exec i s = .next t) (rest : LinesAtRest s.cfg s.lines) :
    LinesAtRest t.cfg t.lines := by
  obtain ⟨_, -, rfl⟩ | ⟨-, rfl⟩ | ⟨-, rfl⟩ | ⟨-, -, -, _, rfl⟩ := exec_kinds h
  · exact rest
  · simp [LinesAtRest, setupWith_eq]
  · cases configured : s.cfg
    · simpa [refresh_levels, configured] using rest
    · simp [LinesAtRest, refresh_levels, configured]
  · exact rest

/-! ### The invariant -/

/-- Every operation keeps the invariant. -/
theorem MachineInv.exec {i : Instr} {s t : State} (inv : MachineInv s) (h : exec i s = .next t) : MachineInv t where
  select := exec_selectOk h inv.select
  pins := exec_pins h ▸ inv.pins
  shape := exec_trace h ▸ inv.shape.append_emitted i s.buf
  replayed := by rw [exec_trace h, replay_append, inv.replayed, exec_replays h]
  rest := exec_linesAtRest h inv.rest

/-- The invariant says nothing of the host's bytes. -/
theorem MachineInv.setInput {s : State} (inv : MachineInv s) (bytes : List Byte) : MachineInv (s.setInput bytes) :=
  ⟨inv.select, inv.pins, inv.shape, inv.replayed, inv.rest⟩

/-- Every step keeps the invariant: it holds the state or runs an operation on the state without the command. -/
theorem MachineInv.step {s t : State} (inv : MachineInv s) (h : step s = .next t) : MachineInv t := by
  obtain ⟨-, rfl⟩ | ⟨_, rest, -, run⟩ := step_cases h
  · exact inv
  · exact (inv.setInput rest).exec run

/-- Settles O48. -/
theorem stepKeepsTheMachineInvariant : Obligations.StepKeepsTheMachineInvariant :=
  fun _ _ inv h => inv.step h

/-! ### Construction and the reachable states -/

/-- Construction goes on exactly from three distinct identifiers, and answers the fresh state (`10_state.md` R25,
`70_reset_and_hazards.md` R210). -/
theorem construct_eq_next_iff {p : PinConfig} {s : State} :
    construct p = .next s ↔ pinsDistinct p = true ∧ s = State.fresh p := by
  cases h : pinsDistinct p <;> simp [construct, h, eq_comm]

/-- A fresh state on distinct pins meets the invariant. -/
theorem machineInv_fresh {p : PinConfig} (h : pinsDistinct p = true) : MachineInv (State.fresh p) where
  select := selectOk_zeroBuffer
  pins := h
  shape := .empty
  replayed := rfl
  rest := by simp [LinesAtRest, State.fresh]

/-- Settles O49: the invariant holds of the fresh state and is kept by operations, bytes sent and steps, none of
which changes the pins. -/
theorem reachableStatesMeetTheInvariant : Obligations.ReachableStatesMeetTheInvariant := by
  intro p s reached
  induction reached with
  | constructed s built =>
    obtain ⟨distinct, rfl⟩ := construct_eq_next_iff.mp built
    exact ⟨machineInv_fresh distinct, rfl⟩
  | issued s t i _ run ih => exact ⟨ih.1.exec run, (exec_pins run).trans ih.2⟩
  | sent s bytes _ ih => exact ⟨ih.1.setInput bytes, ih.2⟩
  | stepped s t _ run ih =>
    obtain ⟨pins, -⟩ := stepKeepsPinsConfigurationAndTrace s t run
    exact ⟨ih.1.step run, pins.trans ih.2⟩

end Sys2Proof.Machine
end

section
/-! Construction of one driver and of several, and operations on one of several (`10_state.md` R23, R25,
`60_exceptions.md` R197). -/

namespace Sys2Proof.Machine

theorem pinsDistinct_iff (p : PinConfig) :
    pinsDistinct p = true ↔ p.data ≠ p.latch ∧ p.data ≠ p.clock ∧ p.latch ≠ p.clock := by
  simp [pinsDistinct, pinIds, and_assoc]

/-- Settles O2: construction asks for the three identifiers to be pairwise distinct. -/
theorem equalPinsAreRefused : Obligations.EqualPinsAreRefused := by
  intro p equal
  have notDistinct : ¬ pinsDistinct p = true := by
    rw [pinsDistinct_iff]
    tauto
  exact if_neg notDistinct

/-- An operation issued to one of several drivers replaces its state by what the operation makes of it. -/
theorem execOn_of_exec {sys : System} {k : Fin sys.instances.length} {i : Instr} {t : State}
    (h : exec i (sys.instances.get k) = .next t) :
    execOn sys k i = .next { instances := sys.instances.set k t } := by
  simp only [execOn, h]

/-- Instances with distinct identifiers are constructed exactly if no line is named twice (`60_exceptions.md` R197). -/
theorem constructSystem_of_distinct {ps : List PinConfig} (h : ∀ p ∈ ps, pinsDistinct p = true) :
    constructSystem ps =
      if (ps.flatMap pinIds).Nodup then .next { instances := ps.map State.fresh } else .refused .sharedLine := by
  have all : ps.all pinsDistinct = true := List.all_eq_true.mpr h
  rw [constructSystem, if_neg (not_not_intro all), ite_not]

/-- Settles O53: an operation on one driver sets one element of the list of instances, and construction tests the
lines named for duplicates. -/
theorem instancesAreIndependent : Obligations.InstancesAreIndependent := by
  refine ⟨fun sys k i t run => ⟨_, execOn_of_exec run, List.length_set, ?_, fun j other => ?_⟩,
    fun ps distinct apart => ?_, fun ps distinct shared => ?_⟩
  · exact List.getElem?_set_self k.isLt
  · exact List.getElem?_set_ne other.symm
  · rw [constructSystem_of_distinct distinct, if_pos apart]
  · rw [constructSystem_of_distinct distinct, if_neg shared]

end Sys2Proof.Machine
end

section
/-! Operations that assign the whole buffer (`20_memory.md` R45), and sequences of operations (R49). -/

namespace Sys2Proof.Machine

theorem exec_setup (s : State) : exec .setup s = .next ((setupWith Config.configureOrder s).setResult none) := rfl

theorem exec_refresh (s : State) : exec .refresh s = .next ((refresh s).setResult none) := rfl

/-- DISPLAY_TEXT completes with the buffer its walk ends with (`43_formatter_text.md` R145). -/
theorem exec_displayText_of_walk {text : List Byte} {b : DigitBuffer}
    (walk : textWalk Config.textNulPolicy text 0 (DigitBuffer.ofFn dsel) = some b) (s : State) :
    exec (.displayText text) s = .next ((s.setBuf b).setResult none) := by
  simp only [exec, execDisplayText, displayTextWith, walk, finish]

/-! ### Sequences of operations -/

/-- A sequence goes on from the state its first operation leaves. -/
theorem runOps_cons_of_exec {i : Instr} {s t : State} (h : exec i s = .next t) (is : List Instr) :
    runOps (i :: is) s = runOps is t := by
  simp only [runOps, h]

/-- A sequence completes if its first operation does and the others complete from the state that one leaves. -/
theorem runOps_cons_eq_next_iff {i : Instr} {is : List Instr} {s u : State} :
    runOps (i :: is) s = .next u ↔ ∃ t, exec i s = .next t ∧ runOps is t = .next u := by
  rw [runOps]
  cases exec i s <;> simp

theorem runOps_singleton (i : Instr) (s : State) : runOps [i] s = exec i s := by
  rw [runOps]
  cases exec i s <;> rfl

/-- A sequence after another runs from the state the other left (`20_memory.md` R49). -/
theorem runOps_append {xs : List Instr} {s t : State} (h : runOps xs s = .next t) (ys : List Instr) :
    runOps (xs ++ ys) s = runOps ys t := by
  induction xs generalizing s with
  | nil =>
    cases h
    rfl
  | cons i is ih =>
    obtain ⟨_, first, others⟩ := runOps_cons_eq_next_iff.mp h
    exact (runOps_cons_of_exec first _).trans (ih others)

/-! ### What an operation overwrites -/

/-- No operation reads the last result, and every operation overwrites it. -/
theorem exec_setResult (i : Instr) (s : State) (r : Option Word) : exec i (s.setResult r) = exec i s := by
  cases i with
  | setup => simp [exec_setup, setupWith_eq, State.setResult]
  | _ => rfl

/-- What an operation that assigns all four words answers does not depend on the words it finds (`20_memory.md` R45). -/
theorem exec_setBuf {i : Instr} (whole : assignsWholeBuffer i = true) (s : State) (b : DigitBuffer) :
    exec i (s.setBuf b) = exec i s := by
  cases i with
  | encode | colon | refresh => cases whole
  | setup => simp [exec_setup, setupWith_eq]
  | clear | displayRaw | displayDec | displayHex | displayText => rfl

/-- Settles O32: a COLON writes only the buffer and the result, and both are overwritten unread. -/
theorem wholeAssignmentsForgetTheBuffer : Obligations.WholeAssignmentsForgetTheBuffer := by
  refine ⟨fun i s b whole => exec_setBuf whole s b, fun i e s whole => ?_⟩
  have colon : exec (.colon e) s =
      .next ((s.setBuf (DigitBuffer.ofFn fun k => withColon e (s.buf.get k))).setResult none) := rfl
  rw [runOps_cons_of_exec colon, runOps_singleton, runOps_singleton, exec_setResult, exec_setBuf whole]

/-! ### The trace is only appended to -/

/-- The state with events before those of its own trace. -/
def State.withHistory (es : List Event) (s : State) : State := { s with trace := es ++ s.trace }

theorem State.setResult_withHistory (es : List Event) (r : Option Word) (s : State) :
    (s.withHistory es).setResult r = (s.setResult r).withHistory es := rfl

theorem emit_withHistory (es : List Event) (e : Event) (s : State) :
    emit e (s.withHistory es) = (emit e s).withHistory es :=
  congrArg (fun trace => { emit e s with trace }) (List.append_assoc es s.trace [e])

theorem transmit_withHistory (es : List Event) (w : Word) (s : State) :
    transmit w (s.withHistory es) = (transmit w s).withHistory es := by
  simp only [transmit, shiftOut8, emit_withHistory]

theorem refresh_withHistory (es : List Event) (s : State) :
    refresh (s.withHistory es) = (refresh s).withHistory es := by
  simp only [refresh_eq, ← transmit_withHistory]
  rfl

theorem setupWith_withHistory (es : List Event) (order : List Line) (s : State) :
    setupWith order (s.withHistory es) = (setupWith order s).withHistory es := by
  simp [setupWith_eq, State.withHistory]

/-- No operation reads the trace or drops an event of it (`20_memory.md` R49). -/
theorem exec_withHistory {i : Instr} {s t : State} (h : exec i s = .next t) (es : List Event) :
    exec i (s.withHistory es) = .next (t.withHistory es) := by
  cases i with
  | setup =>
    rw [exec_setup] at h ⊢
    cases h
    rw [setupWith_withHistory, State.setResult_withHistory]
  | refresh =>
    rw [exec_refresh] at h ⊢
    cases h
    rw [refresh_withHistory, State.setResult_withHistory]
  | displayText text =>
    obtain ⟨b, walk⟩ : ∃ b, textWalk Config.textNulPolicy text 0 (DigitBuffer.ofFn dsel) = some b :=
      ⟨t.buf, exec_displayText_walk h⟩
    rw [exec_displayText_of_walk walk] at h
    cases h
    exact exec_displayText_of_walk walk _
  | encode | clear | displayRaw | displayDec | displayHex | colon =>
    cases h
    rfl

/-- A sequence neither reads the trace it finds nor drops an event of it. -/
theorem runOps_withHistory {ops : List Instr} {s t : State} (h : runOps ops s = .next t) (es : List Event) :
    runOps ops (s.withHistory es) = .next (t.withHistory es) := by
  induction ops generalizing s with
  | nil =>
    cases h
    rfl
  | cons i is ih =>
    obtain ⟨_, first, others⟩ := runOps_cons_eq_next_iff.mp h
    exact (runOps_cons_of_exec (exec_withHistory first es) is).trans (ih others)

/-- Settles O50: a state is the state with the empty trace, with its own trace as history. -/
theorem tracesOfASequenceConcatenate : Obligations.TracesOfASequenceConcatenate := by
  refine ⟨fun _ ys _ _ h => runOps_append h ys, fun ops s t h => ?_⟩
  have restored : State.withHistory s.trace { s with trace := [] } = s := by simp [State.withHistory]
  have run := runOps_withHistory h s.trace
  rw [restored] at run
  exact run

end Sys2Proof.Machine
end

section
/-! The command encoding (`30_encoding.md` section 4): which two bytes are a header of which row, and what stands behind
one. -/

namespace Sys2Proof

/-! ### Words and their bytes -/

@[simp] theorem Word.high_ofBytes (hi lo : Byte) : (Word.ofBytes hi lo).high = hi := BitVec.extractLsb'_append_eq_left

@[simp] theorem Word.low_ofBytes (hi lo : Byte) : (Word.ofBytes hi lo).low = lo := BitVec.extractLsb'_append_eq_right

theorem Word.high_and (v w : Word) : Word.high (v &&& w) = v.high &&& w.high := BitVec.extractLsb'_and

theorem Word.low_and (v w : Word) : Word.low (v &&& w) = v.low &&& w.low := BitVec.extractLsb'_and

theorem Word.eq_iff_bytes {v w : Word} : v = w ↔ v.high = w.high ∧ v.low = w.low := by
  refine ⟨fun same => same ▸ ⟨rfl, rfl⟩, fun ⟨high, low⟩ => ?_⟩
  rw [← Machine.Word_high_append_low v, high, low, Machine.Word_high_append_low]

/-! ### The header table, byte by byte -/

/-- The two bytes are a header of the row: the row of the table of `30_encoding.md` R71, read as conditions on the
operation byte and the modifier. -/
def Opcode.HeadedBy (op modifier : Byte) : Opcode → Prop
  | .encode => op = 0x01
  | .clear => op = 0x02 ∧ modifier = 0x00
  | .setup => op = 0x03 ∧ modifier = 0x00
  | .displayRaw => op = 0x04 ∧ modifier.toNat < 2
  | .displayDec => op = 0x05 ∧ modifier = 0x00
  | .displayHex => op = 0x05 ∧ modifier = 0x01
  | .colon => op = 0x06 ∧ modifier.toNat < 2
  | .displayText => op = 0x07
  | .refresh => op = 0x08 ∧ modifier = 0x00

/-- A row selects a header if its two bytes match, each under its half of the mask. -/
theorem HeaderRow.selects_ofBytes (r : HeaderRow) (op modifier : Byte) :
    r.selects (Word.ofBytes op modifier) = true ↔
      op &&& r.mask.high = r.pattern.high ∧ modifier &&& r.mask.low = r.pattern.low := by
  rw [HeaderRow.selects, beq_iff_eq, Word.eq_iff_bytes, Word.high_and, Word.low_and, Word.high_ofBytes,
    Word.low_ofBytes]

/-- Under the mask 0xFF the whole byte must match. -/
theorem Byte.and_full (b : Byte) : b &&& 255#8 = b := BitVec.and_allOnes

/-- Under the mask 0xFE only a flag matches zero (`30_encoding.md` R71). -/
theorem Byte.and_flagMask : ∀ b : Byte, b &&& 254#8 = 0#8 ↔ b.toNat < 2 := by decide

/-- Every row of the table selects the headers named for its operation. -/
theorem HeaderRow.selects_iff {r : HeaderRow} (mem : r ∈ headerTable) (op modifier : Byte) :
    r.selects (Word.ofBytes op modifier) = true ↔ r.opcode.HeadedBy op modifier := by
  rw [HeaderRow.selects_ofBytes]
  fin_cases mem <;> simp [Word.high, Word.low, Opcode.HeadedBy, Byte.and_full, Byte.and_flagMask]

/-- A header selects only a row that it is a header of. -/
theorem headedBy_of_selectRow {op modifier : Byte} {row : Opcode}
    (h : selectRow (Word.ofBytes op modifier) = some row) : row.HeadedBy op modifier := by
  obtain ⟨r, found, rfl⟩ := Option.map_eq_some_iff.mp h
  exact (HeaderRow.selects_iff (List.mem_of_find?_eq_some found) _ _).mp (List.find?_some found)

/-- The table has a row for every operation. -/
theorem exists_headerRow (row : Opcode) : ∃ r ∈ headerTable, r.opcode = row := by
  cases row <;> simp [headerTable]

/-- A header selects no row exactly when it is a header of none. -/
theorem selectRow_eq_none_iff (op modifier : Byte) :
    selectRow (Word.ofBytes op modifier) = none ↔ ∀ row : Opcode, ¬ row.HeadedBy op modifier := by
  rw [selectRow, Option.map_eq_none_iff, List.find?_eq_none]
  constructor
  · intro unselected row
    obtain ⟨r, mem, rfl⟩ := exists_headerRow row
    rw [← HeaderRow.selects_iff mem]
    exact unselected r mem
  · intro unheaded r mem
    rw [HeaderRow.selects_iff mem]
    exact unheaded r.opcode

/-! ### Payloads -/

/-- A payload field holds the two bytes of the word read from it (`20_memory.md` R43). -/
@[simp] theorem fieldBytes_ofBytes (hi lo : Byte) : fieldBytes (Word.ofBytes hi lo) = [hi, lo] := by
  simp [fieldBytes]

/-- A flag is read back from the modifier it was put into. -/
@[simp] theorem getElem_flagModifier (flag : Bool) : (flagModifier flag)[0] = flag := by
  cases flag <;> rfl

/-- A modifier below 2 is that of the flag in its bit 0 (`30_encoding.md` R71). -/
theorem flagModifier_getElem : ∀ m : Byte, m.toNat < 2 → flagModifier m[0] = m := by decide

/-- What is read behind a header of a row is, with that header, the command of a well-formed operation and the bytes
left over (`30_encoding.md` R71). -/
theorem encode_of_decodePayload {op modifier : Byte} {payload rest : List Byte} {row : Opcode} {i : Instr}
    (header : row.HeadedBy op modifier) (h : decodePayload modifier payload row = .instr i rest) :
    i.wf = true ∧ op :: modifier :: payload = encode i ++ rest := by
  cases row with
  | encode | clear | setup | refresh =>
    cases h
    simpa [Instr.wf, encode, Opcode.HeadedBy] using header
  | colon =>
    cases h
    obtain ⟨rfl, flag⟩ := header
    simp [Instr.wf, encode, flagModifier_getElem _ flag]
  | displayDec | displayHex =>
    simp only [decodePayload] at h
    split at h
    · cases h
      simpa [Instr.wf, encode, Opcode.HeadedBy] using header
    · cases h
  | displayRaw =>
    obtain ⟨rfl, flag⟩ := header
    simp only [decodePayload] at h
    split at h
    · cases h
      simp [Instr.wf, encode, flagModifier_getElem _ flag]
    · cases h
  | displayText =>
    cases header
    simp only [decodePayload, takeBytes_eq] at h
    split_ifs at h with fits
    · cases h
      have byte : modifier.toNat ≤ 255 := Nat.le_of_lt_succ modifier.isLt
      simp [Instr.wf, encode, Config.textMax, byte, Nat.min_eq_left fits]

/-- A payload is refused as short exactly if it and its header are shorter than the command (`30_encoding.md` R72,
R76). -/
theorem decodePayload_eq_shortPayload_iff (modifier : Byte) (payload : List Byte) (row : Opcode) :
    decodePayload modifier payload row = .shortPayload ↔ 2 + payload.length < row.commandLength modifier := by
  cases row with
  | encode | clear | setup | colon | refresh => exact iff_of_false nofun (Nat.not_lt.mpr (Nat.le_add_right 2 _))
  | displayRaw =>
    match payload with
    | [] | [_] | [_, _] | [_, _, _] | [_, _, _, _] | [_, _, _, _, _] | [_, _, _, _, _, _] | [_, _, _, _, _, _, _] =>
      exact iff_of_true rfl (by simp [Opcode.commandLength])
    | _ :: _ :: _ :: _ :: _ :: _ :: _ :: _ :: rest =>
      exact iff_of_false nofun (Nat.not_lt.mpr (Nat.add_le_add_left (Nat.le_add_left 8 rest.length) 2))
  | displayDec | displayHex =>
    match payload with
    | [] | [_] => exact iff_of_true rfl (by simp [Opcode.commandLength])
    | _ :: _ :: rest =>
      exact iff_of_false nofun (Nat.not_lt.mpr (Nat.add_le_add_left (Nat.le_add_left 2 rest.length) 2))
  | displayText =>
    simp only [decodePayload, takeBytes_eq, Opcode.commandLength]
    split_ifs with fits
    · exact iff_of_false nofun (by omega)
    · exact iff_of_true rfl (by omega)

theorem decodePayload_ne_reservedHeader (modifier : Byte) (payload : List Byte) (row : Opcode) :
    decodePayload modifier payload row ≠ .reservedHeader := by
  cases row with
  | encode | clear | setup | colon | refresh => exact nofun
  | displayRaw | displayDec | displayHex | displayText =>
    simp only [decodePayload]
    split <;> exact nofun

/-! ### Commands -/

/-- The length of an operation's command (`30_encoding.md` R72). -/
theorem encode_length (i : Instr) : (encode i).length = Machine.commandBytes i := by
  cases i with
  | displayText text => simp only [encode, Machine.commandBytes, List.length_cons]; omega
  | _ => rfl

/-- Behind a header that selects a row stands its payload. -/
theorem decode_of_selectRow {op modifier : Byte} {row : Opcode}
    (h : selectRow (Word.ofBytes op modifier) = some row) (payload : List Byte) :
    decode (op :: modifier :: payload) = decodePayload modifier payload row := by
  simp only [decode, h]

/-- A header is refused exactly when it selects no row (`30_encoding.md` R76). -/
theorem decode_eq_reservedHeader_iff (op modifier : Byte) (payload : List Byte) :
    decode (op :: modifier :: payload) = .reservedHeader ↔ selectRow (Word.ofBytes op modifier) = none := by
  cases selected : selectRow (Word.ofBytes op modifier) with
  | none => simp only [decode, selected]
  | some row =>
    rw [decode_of_selectRow selected]
    simp [decodePayload_ne_reservedHeader]

/-- Unless it finds no header or a reserved one, the decoder reads the payload of the row its header selects. -/
theorem selectRow_of_decode {bytes : List Byte} (sent : decode bytes ≠ .noHeader)
    (known : decode bytes ≠ .reservedHeader) :
    ∃ op modifier payload row, bytes = op :: modifier :: payload ∧
      selectRow (Word.ofBytes op modifier) = some row ∧ decode bytes = decodePayload modifier payload row := by
  match bytes with
  | [] | [_] => exact absurd rfl sent
  | op :: modifier :: payload =>
    rw [Ne, decode_eq_reservedHeader_iff, ← Ne, Option.ne_none_iff_exists'] at known
    obtain ⟨row, selected⟩ := known
    exact ⟨op, modifier, payload, row, rfl, selected, decode_of_selectRow selected payload⟩

/-- Settles O39: each operation's header selects its row, whose payload is read back field by field. -/
theorem decodeOfEncodeIsTheOperation : Obligations.DecodeOfEncodeIsTheOperation := by
  intro i rest wf
  cases i with
  | encode c => exact decode_of_selectRow (selectRow_encode c) rest
  | clear | setup | displayDec | displayHex | refresh => rfl
  | displayRaw m1 m2 m3 m4 flag =>
    refine (decode_of_selectRow (selectRow_flag flag).1 _).trans ?_
    simp [decodePayload, fieldBytes, Machine.Word_high_append_low]
  | colon flag =>
    refine (decode_of_selectRow (selectRow_flag flag).2 _).trans ?_
    simp [decodePayload]
  | displayText text =>
    have fits : text.length < 2 ^ 8 := Nat.lt_succ_of_le (of_decide_eq_true wf)
    refine (decode_of_selectRow (selectRow_displayText _) (text ++ rest)).trans ?_
    simp only [decodePayload, BitVec.toNat_ofNat, Nat.mod_eq_of_lt fits, takeBytes_append]

/-- Settles O40: a header that selects a row is one of that row's, and what is read behind it is written back. -/
theorem decodedBytesAreTheEncoding : Obligations.DecodedBytesAreTheEncoding := by
  intro bytes i rest decoded
  obtain ⟨op, modifier, payload, row, rfl, selected, read⟩ :=
    selectRow_of_decode (bytes := bytes) (by simp [decoded]) (by simp [decoded])
  exact encode_of_decodePayload (headedBy_of_selectRow selected) (read.symm.trans decoded)

/-- No header of a row is on the list of `30_encoding.md` R76. -/
theorem Opcode.HeadedBy.not_isReserved {row : Opcode} {op modifier : Byte} (header : row.HeadedBy op modifier) :
    Machine.isReserved op modifier = false := by
  cases row with
  | encode | displayText =>
    cases header
    rfl
  | clear | setup | displayDec | displayHex | refresh =>
    obtain ⟨rfl, rfl⟩ := header
    rfl
  | displayRaw | colon =>
    obtain ⟨rfl, flag⟩ := header
    simpa [Machine.isReserved] using flag

/-- Every header that is not on the list is one of a row's. -/
theorem headedBy_of_not_isReserved {op modifier : Byte} (h : Machine.isReserved op modifier = false) :
    ∃ row : Opcode, row.HeadedBy op modifier := by
  have known : op = 0x01 ∨ op = 0x02 ∨ op = 0x03 ∨ op = 0x04 ∨ op = 0x05 ∨ op = 0x06 ∨ op = 0x07 ∨ op = 0x08 := by
    have range : op.toNat ≠ 0 ∧ op.toNat < 9 := by
      simp only [Machine.isReserved, Bool.or_eq_false_iff, beq_eq_false_iff_ne, decide_eq_false_iff_not, not_le] at h
      tauto
    bv_omega
  obtain rfl | rfl | rfl | rfl | rfl | rfl | rfl | rfl := known
  · exact ⟨.encode, rfl⟩
  · exact ⟨.clear, rfl, by simpa [Machine.isReserved, ← BitVec.toNat_inj] using h⟩
  · exact ⟨.setup, rfl, by simpa [Machine.isReserved, ← BitVec.toNat_inj] using h⟩
  · exact ⟨.displayRaw, rfl, by simpa [Machine.isReserved] using h⟩
  · have flag : modifier.toNat < 2 := by simpa [Machine.isReserved] using h
    obtain zero | one : modifier = 0x00 ∨ modifier = 0x01 := by bv_omega
    · exact ⟨.displayDec, rfl, zero⟩
    · exact ⟨.displayHex, rfl, one⟩
  · exact ⟨.colon, rfl, by simpa [Machine.isReserved] using h⟩
  · exact ⟨.displayText, rfl⟩
  · exact ⟨.refresh, rfl, by simpa [Machine.isReserved, ← BitVec.toNat_inj] using h⟩

/-- The headers `30_encoding.md` R76 lists are those of none of the rows of R71. -/
theorem isReserved_iff (op modifier : Byte) :
    Machine.isReserved op modifier = true ↔ ∀ row : Opcode, ¬ row.HeadedBy op modifier := by
  refine ⟨fun reserved row header => ?_, fun unheaded => ?_⟩
  · simp [header.not_isReserved] at reserved
  · by_contra listed
    obtain ⟨row, header⟩ := headedBy_of_not_isReserved (Bool.eq_false_iff.mpr listed)
    exact unheaded row header

/-- Settles O43: the bytes of each command are the command bytes of its operation. -/
theorem commandWordsOfTheSpecDecode : Obligations.CommandWordsOfTheSpecDecode :=
  have decoded (i : Instr) (rest : List Byte) (wf : i.wf = true) := decodeOfEncodeIsTheOperation i rest wf
  ⟨decoded (.encode 0x48) [] rfl, decoded .clear [] rfl, decoded .setup [] rfl,
    decoded (.displayRaw 0x28C8 0x6E40 0x2C00 0xF87C true) [] rfl, decoded (.displayDec 12 34) [0x06, 0x01] rfl,
    decoded (.displayHex 0xBE 0xEF) [] rfl, decoded (.colon true) [] rfl,
    decoded (.displayText [0x2D, 0x33, 0x2E, 0x31, 0x34]) [] rfl, decoded .refresh [] rfl⟩

end Sys2Proof
end

section
/-! Which steps are refused, and why (`30_encoding.md` section 5, `60_exceptions.md` R200). -/

namespace Sys2Proof.Machine

/-- A step refuses a header that selects no operation (`30_encoding.md` R76). -/
theorem step_of_decode_reservedHeader {s : State} (h : decode s.input = .reservedHeader) :
    step s = .refused .reservedHeader := by
  simp only [step, fetch, h]

/-- A step refuses a payload that its header finds too short (`30_encoding.md` R76). -/
theorem step_of_decode_shortPayload {s : State} (h : decode s.input = .shortPayload) :
    step s = .refused .shortPayload := by
  simp only [step, fetch, h]

/-- Settles O41: R76 lists the headers of no row, and a header of no row is refused before its payload is read. -/
theorem reservedHeadersAreRefused : Obligations.ReservedHeadersAreRefused := by
  have reserved (op modifier : Byte) (payload : List Byte) :
      decode (op :: modifier :: payload) = .reservedHeader ↔ isReserved op modifier = true := by
    rw [decode_eq_reservedHeader_iff, selectRow_eq_none_iff, isReserved_iff]
  exact ⟨reserved, fun op modifier payload s listed =>
    step_of_decode_reservedHeader ((reserved op modifier payload).mpr listed)⟩

/-- The one refusal of an operation is that of a text (`60_exceptions.md` R200). -/
theorem exec_refused {i : Instr} {s : State} {r : Refusal} (h : exec i s = .refused r) : r = .textNulReached := by
  obtain ⟨t, completes⟩ | ⟨refused, -⟩ := onlyAReachedNulIsRefused i s
  · simp [completes] at h
  · exact (Host.Outcome.refused.inj (refused.symm.trans h)).symm

/-- The three ways a step can be refused: its fetch refuses the header or the payload, or the operation is refused. -/
theorem step_refused_cases {s : State} {r : Refusal} (h : step s = .refused r) :
    (decode s.input = .reservedHeader ∧ r = .reservedHeader) ∨
    (decode s.input = .shortPayload ∧ r = .shortPayload) ∨
    (∃ i rest, decode s.input = .instr i rest ∧ exec i (s.setInput rest) = .refused r) := by
  cases hd : decode s.input with
  | instr i rest => exact .inr <| .inr ⟨i, rest, rfl, (step_of_decode_instr hd).symm.trans h⟩
  | reservedHeader => exact .inl ⟨rfl, Host.Outcome.refused.inj (h.symm.trans (step_of_decode_reservedHeader hd))⟩
  | shortPayload =>
    exact .inr <| .inl ⟨rfl, Host.Outcome.refused.inj (h.symm.trans (step_of_decode_shortPayload hd))⟩
  | noHeader => simp [step_of_decode_noHeader hd] at h

/-- A step is refused as short behind a header that selects a row and demands more (`30_encoding.md` R72, R76). -/
theorem step_short {op modifier : Byte} {row : Opcode} (selected : selectRow (Word.ofBytes op modifier) = some row)
    {payload : List Byte} (short : 2 + payload.length < row.commandLength modifier) (s : State) :
    step (s.setInput (op :: modifier :: payload)) = .refused .shortPayload :=
  step_of_decode_shortPayload
    ((decode_of_selectRow selected payload).trans ((decodePayload_eq_shortPayload_iff _ _ _).mpr short))

/-- Settles O42: the lengths are those of the encoder, by O40; the short payloads are short of the row their header
selects; and a refusal as short comes from the fetch, since an operation's own refusal is another. -/
theorem shortCommandsAreRefused : Obligations.ShortCommandsAreRefused := by
  refine ⟨fun bytes i rest decoded => ?_, fun s f payload short => ?_, fun s f payload short => ?_,
    fun s n payload short => ?_, fun s refused => ?_, fun s b => ?_⟩
  · obtain ⟨-, rfl⟩ := decodedBytesAreTheEncoding bytes i rest decoded
    rw [List.length_append, encode_length]
  · exact step_short (selectRow_flag f).1 (Nat.add_lt_add_left short 2) s
  · have selected : selectRow (Word.ofBytes 0x05 (flagModifier f)) =
        some (if f then .displayHex else .displayDec) := by cases f <;> decide
    refine step_short selected ?_ s
    cases f <;> exact Nat.add_lt_add_left short 2
  · exact step_short (selectRow_displayText n) (Nat.add_lt_add_left short 2) s
  · obtain ⟨-, other⟩ | ⟨short, -⟩ | ⟨i, rest, -, refused⟩ := step_refused_cases refused
    · cases other
    · obtain ⟨op, modifier, payload, row, sent, selected, read⟩ :=
        selectRow_of_decode (bytes := s.input) (by simp [short]) (by simp [short])
      exact ⟨op, modifier, payload, row, sent, selected,
        (decodePayload_eq_shortPayload_iff _ _ _).mp (read.symm.trans short)⟩
    · cases exec_refused refused
  · exact step_of_decode_noHeader rfl

end Sys2Proof.Machine
end

section
/-! What SETUP, REFRESH and the call forms of the source stand for (`30_encoding.md` R67, R77, R78). -/

namespace Sys2Proof.Machine

/-- Settles O14: CLEAR's result is overwritten unread by REFRESH. -/
theorem setupIsConfigureThenClearThenRefresh : Obligations.SetupIsConfigureThenClearThenRefresh := by
  intro s
  have clear (u : State) : exec .clear u = .next ((Machine.clear u).setResult none) := rfl
  rw [runOps_cons_of_exec (clear _), runOps_singleton, exec_setResult]
  rfl

/-- Place `j` of bracket `k` of a burst is place `j` of the frame of word `k` (`30_encoding.md` R67). -/
theorem burst_getElem? (b : DigitBuffer) (k : Fin 4) {j : Nat} (h : j < 4) :
    (burst b)[4 * k.val + j]? = (frame (b.get k))[j]? := by
  fin_cases k <;> interval_cases j <;> rfl

/-- Settles O34: the events are the burst of the buffer, read place by place. -/
theorem burstHasFourBrackets : Obligations.BurstHasFourBrackets := by
  intro s
  refine ⟨_, burst s.buf, exec_refresh s, refresh_burst s, rfl, rfl, fun k => ?_⟩
  have bracket {j : Nat} (h : j < 4) := burst_getElem? s.buf k h
  exact ⟨bracket (j := 0) (by decide), bracket (j := 1) (by decide), bracket (j := 2) (by decide),
    bracket (j := 3) (by decide)⟩

/-- Settles O44: the call forms are sugar, and in the example of R130 both formats compose each word from the same table
entry. -/
theorem callFormsNameTheirOperations : Obligations.CallFormsNameTheirOperations :=
  ⟨fun _ _ _ => ⟨rfl, rfl⟩, fun _ _ _ _ _ => rfl, fun _ => rfl, fun _ => ⟨_, _, rfl, rfl, rfl, rfl⟩⟩

end Sys2Proof.Machine
end

section
/-! The segment encoder (`40_segment_encoder.md`): the table written from the segment letters of R91 against the values of
R94, and ENCODE. -/

namespace Sys2Proof.Machine

/-! ### The table against R94 -/

/-- The rows written from the segment letters of R91 are the rows of values of R94, in another order. -/
theorem lutRows_perm_r94Rows : lutRows.Perm r94Rows := by decide

/-- No two keys are the same code (`92_eei_decisions.md` D4). -/
theorem nodup_r94Keys : (r94Rows.map Prod.fst).Nodup := by decide

/-- The table reads every value of R94 at its key. -/
theorem lut_of_mem_r94Rows : ∀ row ∈ r94Rows, lut row.1 = row.2 := by decide

/-- An entry that is not blank is one of R94's. -/
theorem mem_r94Rows_of_lut_ne_zero {c : Nat} (h : lut c ≠ 0) : (c, lut c) ∈ r94Rows :=
  lutRows_perm_r94Rows.mem_iff.mp ((lut_zero_or_row c).resolve_left h)

/-- A code that is no key takes the fallback (`40_segment_encoder.md` R93). -/
theorem lut_of_not_isKey {c : Nat} (h : isKey c = false) : lut c = 0 := by
  by_contra lit
  have key : isKey c = true := List.any_eq_true.mpr ⟨_, mem_r94Rows_of_lut_ne_zero lit, beq_self_eq_true c⟩
  exact Bool.false_ne_true (h.symm.trans key)

/-- The keys whose entry is not blank: all but the space. -/
def litKeys : List Nat := (r94Rows.filter fun row => row.2 != 0).map Prod.fst

theorem mem_litKeys_iff (c : Nat) : c ∈ litKeys ↔ lut c ≠ 0 := by
  simp only [litKeys, List.mem_map, List.mem_filter, bne_iff_ne]
  constructor
  · rintro ⟨row, ⟨listed, lit⟩, rfl⟩
    rwa [lut_of_mem_r94Rows row listed]
  · exact fun lit => ⟨_, ⟨mem_r94Rows_of_lut_ne_zero lit, lit⟩, rfl⟩

theorem nodup_litKeys : litKeys.Nodup := nodup_r94Keys.sublist (List.filter_sublist.map _)

/-- The bytes with an entry that is not blank are the lit keys: a wider code has a blank entry. -/
theorem litBytes_perm_litKeys : ((List.range 256).filter fun c => lut c != 0).Perm litKeys := by
  refine (List.perm_ext_iff_of_nodup (List.nodup_range.filter _) nodup_litKeys).mpr fun c => ?_
  rw [List.mem_filter, List.mem_range, bne_iff_ne, mem_litKeys_iff]
  exact and_iff_right_of_imp fun lit => not_le.mp fun wide => lit (lut_of_wide wide)

/-- Settles O5: the letters and the values give the same rows, and the lit bytes are the 51 keys other than the space. -/
theorem encoderTableEntries : Obligations.EncoderTableEntries :=
  ⟨lut_of_mem_r94Rows, rfl, fun _ => lut_of_not_isKey, litBytes_perm_litKeys.length_eq.trans (by decide)⟩

/-! ### The bits of an entry -/

theorem Word_and_or_eq_zero {w m n : Word} (hm : w &&& m = 0) (hn : w &&& n = 0) : w &&& (m ||| n) = 0 := by
  rw [BitVec.and_or_distrib_left, hm, hn, BitVec.or_self]

/-- An entry other than that of ':' has no colon bit (`40_segment_encoder.md` R95). -/
theorem lut_and_colon_of_ne {c : Nat} (h : c ≠ 0x3A) : lut c &&& 0x0004 = 0 :=
  not_not.mp (mt eq_colon_of_lut_and_colon h)

/-- Settles O8: outside 0x6ECC lie the digit-select and the unused bits, outside MASK the digit-select bits and the
colon bit. -/
theorem encoderResultsAreConfined : Obligations.EncoderResultsAreConfined := by
  have outsideEntries : (~~~0x6ECC : Word) = 0x9030 ||| 0x0103 := by decide
  have outsideMask : (~~~0x6FCB : Word) = 0x9030 ||| 0x0004 := by decide
  refine ⟨fun c => ⟨lut_and_select c, lut_and_unused c, ?_, fun notColon => ⟨lut_and_colon_of_ne notColon, ?_⟩⟩, rfl⟩
  · rw [outsideEntries]
    exact Word_and_or_eq_zero (lut_and_select c) (lut_and_unused c)
  · rw [outsideMask]
    exact Word_and_or_eq_zero (lut_and_select c) (lut_and_colon_of_ne notColon)

/-! ### ENCODE -/

theorem exec_encode (c : Byte) (s : State) : exec (.encode c) s = .next (s.setResult (some (lut c.toNat))) := rfl

/-- ENCODE returns the table entry and leaves the rest of the state (`40_segment_encoder.md` R90, R97). -/
theorem exec_encode_frame (c : Byte) (s : State) :
    ∃ t, exec (.encode c) s = .next t ∧ t.result = some (lut c.toNat) ∧
      t.buf = s.buf ∧ t.pins = s.pins ∧ t.cfg = s.cfg ∧ t.lines = s.lines ∧ t.trace = s.trace ∧ t.input = s.input :=
  ⟨_, exec_encode c s, rfl, rfl, rfl, rfl, rfl, rfl, rfl⟩

/-- Settles O7: ENCODE returns the entry, which is that of the space for a code that is no key. -/
theorem unlistedCodesAreBlank : Obligations.UnlistedCodesAreBlank := by
  refine ⟨fun c unlisted => ?_, fun c s unlisted => ?_⟩
  · have blank : lut c = 0 := lut_of_not_isKey unlisted
    have space : lut 0x20 = 0 := rfl
    exact ⟨blank, blank.trans space.symm⟩
  · rw [← lut_of_not_isKey unlisted]
    exact exec_encode_frame c s

/-- Settles O4. -/
theorem encodeReturnsTheTableEntry : Obligations.EncodeReturnsTheTableEntry :=
  have eight : lut 0x38 = 0x6CC8 ∧ lut 0x08 = 0x6CC8 := by decide
  ⟨exec_encode_frame, fun s =>
    ⟨_, _, exec_encode 0x38 s, congrArg some eight.1, exec_encode 0x08 s, congrArg some eight.2⟩⟩

/-- The integer keys read the entries of their characters (`40_segment_encoder.md` R92). -/
theorem lut_digitCode : ∀ k < 16, lut k = lut (digitCode k).toNat := by decide

/-- Settles O6: ENCODE reads nothing of a code but its entry. -/
theorem encoderIsDualKeyed : Obligations.EncoderIsDualKeyed := by
  refine ⟨lut_digitCode, fun k s small => ?_, nodup_r94Keys⟩
  have code : (BitVec.ofNat 8 k).toNat = k := Nat.mod_eq_of_lt (by omega)
  rw [exec_encode, exec_encode, code, lut_digitCode k small]

end Sys2Proof.Machine
end

section
/-! The controller's basic operations (`41_controller_basic.md`): what each leaves, and which bits of a word a raw mask
and a COLON reach. -/

namespace Sys2Proof.Machine

/-! ### CLEAR and SETUP -/

theorem DigitBuffer.get_zeroBuffer (k : Fin 4) : zeroBuffer.get k = 0x0000 := by
  fin_cases k <;> rfl

/-- An operation that only leaves a buffer has the frame of `10_state.md` R37. -/
theorem onlyBufferWritten_setBuf (s : State) (b : DigitBuffer) : OnlyBufferWritten s ((s.setBuf b).setResult none) :=
  ⟨rfl, rfl, rfl, rfl, rfl, rfl⟩

theorem State.setBuf_setBuf (s : State) (b b' : DigitBuffer) : (s.setBuf b).setBuf b' = s.setBuf b' := rfl

theorem exec_clear (s : State) : exec .clear s = .next ((s.setBuf zeroBuffer).setResult none) := rfl

theorem exec_displayRaw (m1 m2 m3 m4 : Word) (c : Bool) (s : State) :
    exec (.displayRaw m1 m2 m3 m4 c) s =
      .next ((s.setBuf (DigitBuffer.ofFn fun k => rawWord mask k (rawMask m1 m2 m3 m4 k) c)).setResult none) := rfl

/-- Settles O9: zero masks still leave the select flags, which CLEAR does not write. -/
theorem clearZeroesTheBuffer : Obligations.ClearZeroesTheBuffer := fun s =>
  ⟨⟨_, exec_clear s, DigitBuffer.get_zeroBuffer, onlyBufferWritten_setBuf s _⟩,
    ⟨_, exec_displayRaw _ _ _ _ _ s, rfl⟩⟩

/-- Settles O10: CLEAR reads neither the buffer nor the last result, the two parts of the state it writes. -/
theorem clearTwiceIsClearOnce : Obligations.ClearTwiceIsClearOnce := by
  intro s
  have forgets (b : DigitBuffer) : exec .clear (s.setBuf b) = exec .clear s := exec_setBuf rfl s b
  refine ⟨_, exec_clear s, ?_, fun b => (forgets b).trans (exec_clear s)⟩
  rw [exec_setResult, forgets, exec_clear]

theorem isConfiguration_map {order : List Line} (h : order.Perm [.data, .latch, .clock]) :
    IsConfiguration (order.map Event.configure) := h.map Event.configure

/-- The state SETUP leaves (`41_controller_basic.md` R112). -/
theorem exec_setup_eq (s : State) :
    exec .setup s = .next
      { s with
        buf := zeroBuffer, cfg := true
        lines := { data := some false, clock := some false, latch := some true }
        trace := s.trace ++ Config.configureOrder.map Event.configure ++ burst zeroBuffer
        result := none } := by
  rw [exec_setup, setupWith_eq]
  rfl

/-- Settles O11: the Configure events are those of CONFIGURE_ORDER, and the burst is that of the buffer just cleared. -/
theorem setupInitialises : Obligations.SetupInitialises := fun s =>
  ⟨_, _, exec_setup_eq s, DigitBuffer.get_zeroBuffer, rfl, rfl, rfl, rfl, isConfiguration_map (.refl _), rfl, rfl,
    rfl, rfl, rfl, rfl⟩

/-- Settles O12: in `setupWith_eq` the order stands in the trace only, and it need not be a permutation for that. -/
theorem setupOrderShowsOnlyInTheTrace : Obligations.SetupOrderShowsOnlyInTheTrace := by
  intro order s _
  rw [setupWith_eq order, setupWith_eq Config.configureOrder]
  exact ⟨rfl, rfl⟩

/-- Settles O13: what SETUP leaves depends on the state it finds in the pins, the trace and the input only. -/
theorem setupIsIdempotentInState : Obligations.SetupIsIdempotentInState := fun s =>
  ⟨_, _, _, exec_setup_eq s, exec_setup_eq _, rfl, rfl, rfl, rfl, rfl, rfl, isConfiguration_map (.refl _), rfl⟩

/-! ### DISPLAY_RAW -/

/-- A raw word with the values of MASK and CC put in (`41_controller_basic.md` R114, `30_encoding.md` R61, R62). -/
theorem rawWord_mask (k : Fin 4) (m : Word) (c : Bool) :
    rawWord mask k m c = dsel k ||| (0x6FCB &&& m) ||| (if c then 0x0004 else 0x0000) := rfl

/-- Settles O15: each word is a raw word under MASK. -/
theorem displayRawComposesWords : Obligations.DisplayRawComposesWords :=
  ⟨fun m1 m2 m3 m4 c s => ⟨_, exec_displayRaw m1 m2 m3 m4 c s, rawWord_mask 0 m1 c, rawWord_mask 1 m2 c,
      rawWord_mask 2 m3 c, rawWord_mask 3 m4 c, onlyBufferWritten_setBuf s _⟩,
    fun s => ⟨_, exec_displayRaw _ _ _ _ _ s, rfl⟩⟩

theorem Word_and_eq_zero_of_subset {w a b : Word} (h : w &&& a = 0) (subset : a &&& b = b) : w &&& b = 0 := by
  rw [← subset, ← BitVec.and_assoc, h]
  exact BitVec.zero_and

/-- Where MASK has no bit, a raw word has only its digit-select flag and its colon bit, whatever its mask operand. -/
theorem rawWord_and {maskValue x : Word} (h : maskValue &&& x = 0) (k : Fin 4) (m : Word) (c : Bool) :
    rawWord maskValue k m c &&& x = (dsel k &&& x) ||| (colonBit c &&& x) := by
  have segments : maskValue &&& m &&& x = 0 := by
    rw [BitVec.and_assoc, BitVec.and_comm m, ← BitVec.and_assoc, h]
    exact BitVec.zero_and
  rw [rawWord, composeWord_and, segments]
  simp

/-- A raw word lies within its digit-select flag, MASK and CC (`41_controller_basic.md` R115). -/
theorem rawWord_and_outside (maskValue : Word) (k : Fin 4) (m : Word) (c : Bool) :
    rawWord maskValue k m c &&& ~~~(dsel k ||| maskValue ||| 0x0004) = 0 := by
  apply BitVec.eq_of_getLsbD_eq
  intro j h
  have colon : (colonBit c).getLsbD j = true → (0x0004 : Word).getLsbD j = true := by
    cases c
    · simp [colonBit]
    · exact id
  simp only [rawWord, composeWord, BitVec.getLsbD_and, BitVec.getLsbD_or, BitVec.getLsbD_not, h]
  grind

/-- Flipping bits a word lacks does not show under it. -/
theorem Word_and_xor_of_disjoint {w a : Word} (h : w &&& a = 0) (m x : Word) : w &&& (m ^^^ (x &&& a)) = w &&& m := by
  apply BitVec.eq_of_getLsbD_eq
  intro j _
  have apart : (w.getLsbD j && a.getLsbD j) = false := by
    rw [← BitVec.getLsbD_and, h]
    exact BitVec.getLsbD_zero
  simp only [BitVec.getLsbD_and, BitVec.getLsbD_xor]
  grind

/-- MASK drops the control bits of an operand (`41_controller_basic.md` R115). -/
theorem rawWord_xor_control (k : Fin 4) (m x : Word) (c : Bool) :
    rawWord mask k (m ^^^ (x &&& 0x9034)) c = rawWord mask k m c := by
  rw [rawWord, rawWord, Word_and_xor_of_disjoint (by decide)]

/-- Settles O16: the first two clauses are a raw word seen where MASK has no bit. -/
theorem rawMasksCannotForgeControlBits : Obligations.RawMasksCannotForgeControlBits := by
  refine ⟨fun maskValue k m c free => ⟨?_, ?_, rawWord_and_outside maskValue k m c⟩,
    fun m1 m2 m3 m4 x1 x2 x3 x4 c s => ?_⟩
  · rw [rawWord_and (Word_and_eq_zero_of_subset free (by decide))]
    exact (by decide : ∀ k c, (dsel k &&& 0x9030) ||| (colonBit c &&& 0x9030) = dsel k) k c
  · rw [rawWord_and (Word_and_eq_zero_of_subset free (by decide))]
    exact (by decide : ∀ k (c : Bool),
      (dsel k &&& 0x0004) ||| (colonBit c &&& 0x0004) = if c then 0x0004 else 0x0000) k c
  · simp only [exec_displayRaw, DigitBuffer.ofFn, rawMask, rawWord_xor_control]

/-! ### COLON -/

theorem exec_colon (e : Bool) (s : State) :
    exec (.colon e) s = .next ((s.setBuf (DigitBuffer.ofFn fun k => withColon e (s.buf.get k))).setResult none) := rfl

/-- COLON writes bit 2 of a word and keeps the others (`41_controller_basic.md` R116). -/
theorem getLsbD_withColon (e : Bool) (w : Word) {j : Nat} (h : j < 16) :
    (withColon e w).getLsbD j = if j = 2 then e else w.getLsbD j := by
  have flag : DigitFlag.CC.getLsbD j = decide (j = 2) := by
    have single : DigitFlag.CC = BitVec.twoPow 16 2 := by decide
    simp [single, BitVec.getLsbD_twoPow, eq_comm]
  cases e
  · rw [withColon, if_neg Bool.false_ne_true, BitVec.getLsbD_and, BitVec.getLsbD_not, flag]
    by_cases colon : j = 2 <;> simp [colon, h]
  · rw [withColon, if_pos rfl, BitVec.getLsbD_or, flag]
    by_cases colon : j = 2 <;> simp [colon]

theorem withColon_withColon (e e' : Bool) (w : Word) : withColon e' (withColon e w) = withColon e' w := by
  apply BitVec.eq_of_getLsbD_eq
  intro j h
  rw [getLsbD_withColon e' _ h, getLsbD_withColon e' _ h]
  split
  · rfl
  · rw [getLsbD_withColon e w h, if_neg ‹_›]

/-- COLON completes, the four words mapped in their order. -/
theorem exec_colon_words (e : Bool) (s : State) :
    ∃ t, exec (.colon e) s = .next t ∧ bufferWords t.buf = (bufferWords s.buf).map (withColon e) :=
  ⟨_, exec_colon e s, rfl⟩

/-- Settles O17: a word goes through `withColon`, which writes bit 2; so do the words of the worked example, twice. -/
theorem colonChangesOnlyTheColonBit : Obligations.ColonChangesOnlyTheColonBit := by
  refine ⟨fun e s => ⟨_, exec_colon e s, onlyBufferWritten_setBuf s _, fun k j h => ?_⟩, fun s shown => ?_⟩
  · rw [State.setResult_buf, State.setBuf_buf, DigitBuffer.get_ofFn, getLsbD_withColon e _ h]
  · obtain ⟨t, on, lit⟩ := exec_colon_words true s
    obtain ⟨u, off, dark⟩ := exec_colon_words false t
    rw [lit, shown] at dark
    rw [shown] at lit
    exact ⟨t, u, on, lit.trans (by decide), off, dark.trans (by decide)⟩

/-- Settles O18: of what the first COLON writes, the second overwrites the colon bits and the result and keeps only bits
that were there before. -/
theorem laterColonWins : Obligations.LaterColonWins := by
  refine ⟨fun e e' s => ⟨_, exec_colon e s, ?_⟩, fun s => ?_⟩
  · rw [exec_setResult]
    simp [exec_colon, withColon_withColon, State.setBuf_setBuf]
  · obtain ⟨t, on, words⟩ := exec_colon_words true ((s.setBuf zeroBuffer).setResult none)
    have run : runOps [.clear, .colon true] s = .next t := by
      rw [runOps_cons_of_exec (exec_clear s), runOps_singleton, on]
    have four : (bufferWords zeroBuffer).map (withColon true) = [0x0004, 0x0004, 0x0004, 0x0004] := by decide
    exact ⟨t, run, words.trans four⟩

end Sys2Proof.Machine
end

section
/-! The two-value displays (`42_formatter_numeric.md`): the glyphs of one operand, the buffer the glyphs of both
leave, and the text that leaves the same buffer. -/

namespace Sys2Proof.Machine

/-! ### The glyphs of one operand -/

/-- Above 99 a decimal operand shows 'E' twice (`42_formatter_numeric.md` R132). -/
theorem decimalGlyphs_of_gt {v : Byte} (h : 99 < v.toNat) : decimalGlyphs v = (lut 0x45, lut 0x45) := if_pos h

/-- Up to 99 a decimal operand shows its tens and units (`42_formatter_numeric.md` R131). -/
theorem decimalGlyphs_of_le {v : Byte} (h : v.toNat ≤ 99) :
    decimalGlyphs v = (lut (v.toNat / 10), lut (v.toNat % 10)) := if_neg (Nat.not_lt.mpr h)

/-- Below 10 the tens glyph is that of '0' (`42_formatter_numeric.md` R137). -/
theorem decimalGlyphs_of_lt_ten {v : Byte} (h : v.toNat < 10) : decimalGlyphs v = (lut 0, lut v.toNat) := by
  rw [decimalGlyphs_of_le (by omega), Nat.div_eq_of_lt h, Nat.mod_eq_of_lt h]

/-- A decimal operand under the digit-select flags of its two words (`42_formatter_numeric.md` R131, R132). -/
theorem decimalGlyphs_words (f g : Word) (v : Byte) :
    if v.toNat > 99 then
      f ||| (decimalGlyphs v).1 = f ||| lut 0x45 ∧ g ||| (decimalGlyphs v).2 = g ||| lut 0x45
    else
      f ||| (decimalGlyphs v).1 = f ||| lut (v.toNat / 10) ∧ g ||| (decimalGlyphs v).2 = g ||| lut (v.toNat % 10) := by
  split
  case isTrue above =>
    rw [decimalGlyphs_of_gt above]
    exact ⟨rfl, rfl⟩
  case isFalse inRange =>
    rw [decimalGlyphs_of_le (Nat.not_lt.mp inRange)]
    exact ⟨rfl, rfl⟩

/-- Shift and mask read the high and the low nibble (`42_formatter_numeric.md` R134). -/
theorem hexGlyphs_eq (v : Byte) : hexGlyphs v = (lut (v.toNat / 16), lut (v.toNat % 16)) := by
  have high : (v >>> 4).toNat = v.toNat / 16 := by
    rw [BitVec.toNat_ushiftRight, Nat.shiftRight_eq_div_pow]
  have low : (v &&& 0xF).toNat = v.toNat % 16 := by
    rw [BitVec.toNat_and]
    exact Nat.and_two_pow_sub_one_eq_mod v.toNat 4
  rw [hexGlyphs, high, low]

/-- A decimal operand up to 99 shows what the byte with its two digits as nibbles shows (`42_formatter_numeric.md`
R139). -/
theorem decimalGlyphs_eq_hexGlyphs {v : Byte} (h : v.toNat ≤ 99) :
    decimalGlyphs v = hexGlyphs (BitVec.ofNat 8 (16 * (v.toNat / 10) + v.toNat % 10)) := by
  have digits : (BitVec.ofNat 8 (16 * (v.toNat / 10) + v.toNat % 10)).toNat = 16 * (v.toNat / 10) + v.toNat % 10 :=
    Nat.mod_eq_of_lt (by omega)
  have tens : (16 * (v.toNat / 10) + v.toNat % 10) / 16 = v.toNat / 10 := by omega
  have units : (16 * (v.toNat / 10) + v.toNat % 10) % 16 = v.toNat % 10 := by omega
  rw [decimalGlyphs_of_le h, hexGlyphs_eq, digits, tens, units]

/-! ### The buffer of a two-value display -/

/-- Two glyphs for words 0 and 1 and two for words 2 and 3, under the digit-select flags (`42_formatter_numeric.md`
R131, R134). -/
def pairBuffer (high low : Word × Word) : DigitBuffer :=
  { w0 := 0x8000 ||| high.1, w1 := 0x1000 ||| high.2, w2 := 0x0010 ||| low.1, w3 := 0x0020 ||| low.2 }

theorem displayGlyphPairs_eq (glyphs : Byte → Word × Word) (hi lo : Byte) (s : State) :
    displayGlyphPairs glyphs hi lo s = s.setBuf (pairBuffer (glyphs hi) (glyphs lo)) := by
  have noColon (k : Fin 4) (g : Word) : composeWord k g (colonBit false) = dsel k ||| g := BitVec.or_zero
  simp only [displayGlyphPairs, fillBuffer_eq, noColon]
  rfl

theorem exec_displayDec (hi lo : Byte) (s : State) :
    exec (.displayDec hi lo) s = .next ((s.setBuf (pairBuffer (decimalGlyphs hi) (decimalGlyphs lo))).setResult none) :=
  congrArg finish (displayGlyphPairs_eq decimalGlyphs hi lo s)

theorem exec_displayHex (hi lo : Byte) (s : State) :
    exec (.displayHex hi lo) s = .next ((s.setBuf (pairBuffer (hexGlyphs hi) (hexGlyphs lo))).setResult none) :=
  congrArg finish (displayGlyphPairs_eq hexGlyphs hi lo s)

/-! ### The same buffer from a text -/

/-- Four characters, none of them '.' or 0x00, go to the four digits (`43_formatter_text.md` R145). -/
theorem exec_displayText_four {a b c d : Byte} (plain : ∀ x ∈ [a, b, c, d], x ≠ charPoint ∧ x ≠ 0x00) (s : State) :
    exec (.displayText [a, b, c, d]) s =
      .next ((s.setBuf (pairBuffer (lut a.toNat, lut b.toNat) (lut c.toNat, lut d.toNat))).setResult none) := by
  simp only [List.forall_mem_cons] at plain
  obtain ⟨⟨pa, na⟩, ⟨pb, nb⟩, ⟨pc, nc⟩, ⟨pd, nd⟩, -⟩ := plain
  apply exec_displayText_of_walk
  rw [textWalk_glyph _ _ _ (by decide) pa na, textWalk_glyph _ _ _ (by decide) pb nb,
    textWalk_glyph _ _ _ (by decide) pc nc, textWalk_glyph _ _ _ (by decide) pd nd, textWalk_nil]
  rfl

theorem digitCode_plain : ∀ n < 16, digitCode n ≠ charPoint ∧ digitCode n ≠ 0x00 := by decide

/-- The characters of four hexadecimal digits show the entries of their integer keys (`40_segment_encoder.md` R92). -/
theorem exec_displayText_digits {a b c d : Nat} (ha : a < 16) (hb : b < 16) (hc : c < 16) (hd : d < 16) (s : State) :
    exec (.displayText [digitCode a, digitCode b, digitCode c, digitCode d]) s =
      .next ((s.setBuf (pairBuffer (lut a, lut b) (lut c, lut d))).setResult none) := by
  have plain : ∀ x ∈ [digitCode a, digitCode b, digitCode c, digitCode d], x ≠ charPoint ∧ x ≠ 0x00 := by
    simp only [List.forall_mem_cons]
    exact ⟨digitCode_plain a ha, digitCode_plain b hb, digitCode_plain c hc, digitCode_plain d hd, by simp⟩
  rw [exec_displayText_four plain, ← lut_digitCode a ha, ← lut_digitCode b hb,
    ← lut_digitCode c hc, ← lut_digitCode d hd]

/-! ### The obligations -/

/-- Settles O20: each half of the buffer holds the glyphs of one operand only, and above 99 these are 'E', 'E'. -/
theorem decimalSentinel : Obligations.DecimalSentinel := by
  have left : 0x8000 ||| lut 0x45 = 0xEC40 ∧ 0x1000 ||| lut 0x45 = 0x7C40 := by decide
  have right : 0x0010 ||| lut 0x45 = 0x6C50 ∧ 0x0020 ||| lut 0x45 = 0x6C60 := by decide
  refine ⟨fun hi lo s => ⟨_, _, _, exec_displayDec hi lo s, onlyBufferWritten_setBuf s _, exec_displayDec hi 0 s,
    rfl, rfl, exec_displayDec 0 lo s, rfl, rfl, fun above => ?_, fun above => ?_⟩, fun s => ?_⟩
  · rw [decimalGlyphs_of_gt above]
    exact left
  · rw [decimalGlyphs_of_gt above]
    exact right
  · exact ⟨_, _, _, _, exec_displayDec 99 0 s, rfl, exec_displayDec 100 0 s, rfl,
      exec_displayDec 99 100 s, rfl, exec_displayDec 255 255 s, rfl⟩

/-- Settles O23: the three operations leave the buffer of the same glyphs. -/
theorem decimalHexAndTextAgree : Obligations.DecimalHexAndTextAgree := by
  refine ⟨fun hi lo s small small' => ?_, fun hi lo s => ?_⟩
  · rw [exec_displayDec, exec_displayHex, decimalGlyphs_eq_hexGlyphs small, decimalGlyphs_eq_hexGlyphs small']
  · rw [exec_displayText_digits (by omega) (by omega) (by omega) (by omega), exec_displayHex, hexGlyphs_eq,
      hexGlyphs_eq]

/-- Settles O19: the two clauses are one, at the flags of either half. -/
theorem displayDecRendersTwoDecimals : Obligations.DisplayDecRendersTwoDecimals :=
  ⟨fun hi lo s => ⟨_, exec_displayDec hi lo s, onlyBufferWritten_setBuf s _, decimalGlyphs_words _ _ hi,
      decimalGlyphs_words _ _ lo⟩,
    fun s => ⟨_, exec_displayDec 23 59 s, rfl⟩⟩

/-- Settles O21: below 10 the tens glyph, in the first word of a half, is the entry of the integer 0. -/
theorem leadingZerosAreShown : Obligations.LeadingZerosAreShown := by
  have zero : 0x8000 ||| lut 0 = 0xEC88 ∧ 0x0010 ||| lut 0 = 0x6C98 := by decide
  refine fun hi lo s => ⟨_, exec_displayDec hi lo s, fun small => ?_, fun small => ?_⟩
  · rw [decimalGlyphs_of_lt_ten small]
    exact zero.1
  · rw [decimalGlyphs_of_lt_ten small]
    exact zero.2

/-- Settles O22: the four words are the buffer of the nibbles' glyphs. -/
theorem displayHexRendersNibbles : Obligations.DisplayHexRendersNibbles := by
  refine ⟨fun hi lo s => ⟨_, exec_displayHex hi lo s, onlyBufferWritten_setBuf s _, ?_⟩,
    fun s => ⟨_, exec_displayHex 0xAB 0xCD s, rfl⟩⟩
  rw [hexGlyphs_eq, hexGlyphs_eq]
  exact ⟨rfl, rfl, rfl, rfl⟩

end Sys2Proof.Machine
end

section
/-! The text display (`43_formatter_text.md`): one turn of the walk over any character, a walk over a text in two parts,
the closed form of its words, and the three readings of a code 0x00. -/

namespace Sys2Proof.Machine

/-! ### Putting a character into the buffer -/

/-- What a character that the walk meets with its cursor at `i` puts into word `k`: `contribution` at any cursor. -/
def charWord (i : Nat) (c : Byte) (k : Nat) : Word :=
  if isPoint c then (if max ((i : Int) - 1) 0 = (k : Int) then 0x0200 else 0x0000)
  else if i = k then lut c.toNat else 0x0000

theorem contribution_eq (text : List Byte) (k : Nat) :
    contribution text k = fun p => charWord (cursorAt text p) (text.getD p 0x00) k := rfl

/-- The word before the cursor, or word 0 (`43_formatter_text.md` R153). -/
theorem charWord_point (i : Nat) : charWord i charPoint = fun k => if i - 1 = k then DigitFlag.DP else 0 := by
  funext k
  have target : max ((i : Int) - 1) 0 = (k : Int) ↔ i - 1 = k := by omega
  rw [charWord, if_pos (by decide)]
  simp only [target, DigitFlag.DP]

theorem charWord_glyph {c : Byte} (point : isPoint c = false) (i : Nat) :
    charWord i c = fun k => if i = k then lut c.toNat else 0 := by
  funext k
  rw [charWord, if_neg (by simp [point])]

/-- Before the first character and after it, a point goes to word 0 (`43_formatter_text.md` R148). -/
theorem charWord_point_zero : charWord 0 charPoint = charWord 1 charPoint := rfl

/-- Nothing is put into a word, word 0 apart, that the cursor has not passed (`43_formatter_text.md` R149). -/
theorem charWord_eq_zero {i k : Nat} {c : Byte} (notFirst : k ≠ 0) (h : (i + if isPoint c then 0 else 1) ≤ k) :
    charWord i c k = 0 := by
  unfold charWord
  split
  case isTrue point =>
    rw [if_pos point] at h
    exact if_neg (by omega)
  case isFalse glyph =>
    rw [if_neg glyph] at h
    exact if_neg (by omega)

/-- ORs `f k` into every word `k`. -/
def DigitBuffer.orWords (b : DigitBuffer) (f : Nat → Word) : DigitBuffer :=
  DigitBuffer.ofFn fun k => b.get k ||| f k.val

@[simp] theorem DigitBuffer.get_orWords (b : DigitBuffer) (f : Nat → Word) (k : Fin 4) :
    (b.orWords f).get k = b.get k ||| f k.val := DigitBuffer.get_ofFn _ k

theorem DigitBuffer.orWords_comm (b : DigitBuffer) (f g : Nat → Word) :
    (b.orWords f).orWords g = (b.orWords g).orWords f :=
  DigitBuffer.ext_get fun k => by simp [BitVec.or_assoc, BitVec.or_comm (f k.val)]

@[simp] theorem DigitBuffer.orWords_self (b : DigitBuffer) (f : Nat → Word) :
    (b.orWords f).orWords f = b.orWords f :=
  DigitBuffer.ext_get fun k => by simp [BitVec.or_assoc]

/-- ORing into one word, as ORing into every word. -/
theorem DigitBuffer.orInto_eq_orWords (b : DigitBuffer) (j : Fin 4) (v : Word) :
    b.orInto j v = b.orWords fun k => if j.val = k then v else 0 := by
  refine DigitBuffer.ext_get fun k => ?_
  rw [DigitBuffer.get_orInto, DigitBuffer.get_orWords]
  by_cases same : k = j
  · rw [if_pos same, if_pos (congrArg Fin.val same.symm)]
  · rw [if_neg same, if_neg fun val => same (Fin.ext val.symm)]
    exact BitVec.or_zero.symm

/-! ### The walk, turn by turn and in two parts -/

/-- One turn over a character that the policy does not stop at (`43_formatter_text.md` R145). -/
theorem textWalk_cons {p : TextNulPolicy} {c : Byte} (reads : c = 0x00 → p = .ordinary) {i : Nat} (h : i < 4)
    (rest : List Byte) (b : DigitBuffer) :
    textWalk p (c :: rest) i b = textWalk p rest (i + if isPoint c then 0 else 1) (b.orWords (charWord i c)) := by
  by_cases point : c = charPoint
  · subst point
    rw [textWalk_point _ _ _ h, DigitBuffer.orInto_eq_orWords, charWord_point]
    rfl
  · have notPoint : isPoint c = false := by simpa [isPoint, charPoint] using point
    rw [charWord_glyph notPoint, ← DigitBuffer.orInto_eq_orWords b ⟨i, h⟩, notPoint]
    by_cases nul : c = 0x00
    · subst nul
      rw [reads rfl]
      exact textWalk_nul _ _ _ h
    · exact textWalk_glyph _ _ _ h point nul

/-- A point under the spec's policy, whatever follows it. -/
theorem textWalk_refuse_point {i : Nat} (h : i < 4) (rest : List Byte) (b : DigitBuffer) :
    textWalk .refuse (charPoint :: rest) i b = textWalk .refuse rest i (b.orWords (charWord i charPoint)) :=
  textWalk_cons (by decide) h rest b

/-- A text in two parts, where 0x00 does not end the input: the second is walked from the cursor the first leaves. -/
theorem textWalk_append {p : TextNulPolicy} (h : p ≠ .terminate) (xs ys : List Byte) (i : Nat) (b : DigitBuffer) :
    textWalk p (xs ++ ys) i b = (textWalk p xs i b).bind (textWalk p ys (i + cursorAt xs xs.length)) := by
  induction xs generalizing i b with
  | nil => rfl
  | cons c rest ih =>
    rw [List.length_cons, cursorAt_cons_succ, ← Nat.add_assoc, List.cons_append]
    by_cases hi : i < 4
    · by_cases refused : c = 0x00 ∧ p = .refuse
      · obtain ⟨rfl, rfl⟩ := refused
        rw [textWalk_nul _ _ _ hi, textWalk_nul _ _ _ hi]
        rfl
      · have reads : c = 0x00 → p = .ordinary := fun nul => by
          cases p with
          | refuse => exact absurd ⟨nul, rfl⟩ refused
          | terminate => exact absurd rfl h
          | ordinary => rfl
        rw [textWalk_cons reads hi, textWalk_cons reads hi, ih]
    · have full : 4 ≤ i := Nat.not_lt.mp hi
      rw [textWalk_full _ _ full, textWalk_full _ _ full]
      exact (textWalk_full _ _ (by omega) _).symm

/-! ### The three readings of 0x00 -/

/-- A walk that is not refused reads every character, as under the policy that reads 0x00 too. -/
theorem textWalk_ordinary_of_refuse {text : List Byte} {i : Nat} {b b' : DigitBuffer}
    (walk : textWalk .refuse text i b = some b') : textWalk .ordinary text i b = some b' := by
  induction text generalizing i b with
  | nil => exact walk
  | cons c rest ih =>
    by_cases hi : i < 4
    · by_cases nul : c = 0x00
      · subst nul
        rw [textWalk_nul _ _ _ hi] at walk
        cases walk
      · rw [textWalk_cons (absurd · nul) hi] at walk ⊢
        exact ih walk
    · rwa [textWalk_full _ _ (Nat.not_lt.mp hi)] at walk ⊢

/-- Under terminate the first 0x00 ends the text (`43_formatter_text.md` R152). -/
theorem textWalk_terminate (text : List Byte) (i : Nat) (b : DigitBuffer) :
    textWalk .terminate text i b = textWalk .refuse (text.takeWhile fun c => c != 0x00) i b := by
  induction text generalizing i b with
  | nil => rfl
  | cons c rest ih =>
    by_cases hi : i < 4
    · by_cases nul : c = 0x00
      · subst nul
        exact textWalk_nul _ _ _ hi
      · rw [List.takeWhile_cons_of_pos (p := fun c => c != 0x00) (bne_iff_ne.mpr nul), textWalk_cons (absurd · nul) hi,
          textWalk_cons (absurd · nul) hi, ih]
    · rw [textWalk_full _ _ (Nat.not_lt.mp hi), textWalk_full _ _ (Nat.not_lt.mp hi)]

theorem reachesNulFrom_mem {i : Nat} {text : List Byte} (h : ReachesNulFrom i text) : 0x00 ∈ text := by
  obtain ⟨p, inside, -, nul⟩ := h
  rw [List.getD_eq_getElem _ _ inside] at nul
  exact nul ▸ List.getElem_mem inside

/-- The policies differ on texts with a code 0x00 only (`43_formatter_text.md` R152). -/
theorem textWalk_of_nul_not_mem {text : List Byte} (h : 0x00 ∉ text) (p : TextNulPolicy) (i : Nat) (b : DigitBuffer) :
    textWalk p text i b = textWalk .refuse text i b := by
  cases p with
  | refuse => rfl
  | terminate =>
    have whole : (text.takeWhile fun c => c != 0x00) = text :=
      List.takeWhile_eq_self_iff.mpr fun c mem => bne_iff_ne.mpr fun nul => h (nul ▸ mem)
    rw [textWalk_terminate, whole]
  | ordinary =>
    have completes := mt (textWalk_refuse_eq_none_iff text i b).mp (mt reachesNulFrom_mem h)
    obtain ⟨b', walk⟩ := Option.ne_none_iff_exists'.mp completes
    rw [walk, textWalk_ordinary_of_refuse walk]

/-! ### The closed form -/

/-- What a walk from cursor `i` makes of a word `k` that is `w` before it: `textWord` generalised to any cursor. -/
def textWordFrom (i : Nat) (text : List Byte) (k : Nat) (w : Word) : Word :=
  (((List.range text.length).filter fun p => i + cursorAt text p < 4).map fun p =>
    charWord (i + cursorAt text p) (text.getD p 0x00) k).foldl (· ||| ·) w

theorem textWord_eq (text : List Byte) (k : Fin 4) : textWord text k = textWordFrom 0 text k.val (dsel k) := by
  have reached : (List.range text.length).filter (walkReaches text) =
      (List.range text.length).filter fun p => cursorAt text p < 4 :=
    List.filter_congr fun p inside => by simp [walkReaches, List.mem_range.mp inside]
  simp only [textWord, textWordFrom, reached, Nat.zero_add, contribution_eq]

theorem textWordFrom_full {i : Nat} (h : 4 ≤ i) (text : List Byte) (k : Nat) (w : Word) :
    textWordFrom i text k w = w := by
  have nothing : ((List.range text.length).filter fun p => i + cursorAt text p < 4) = [] := by
    simp only [List.filter_eq_nil_iff, decide_eq_true_eq]
    omega
  rw [textWordFrom, nothing]
  rfl

theorem textWordFrom_cons {i : Nat} (h : i < 4) (c : Byte) (rest : List Byte) (k : Nat) (w : Word) :
    textWordFrom i (c :: rest) k w =
      textWordFrom (i + if isPoint c then 0 else 1) rest k (w ||| charWord i c k) := by
  simp [textWordFrom, List.range_succ_eq_map, List.filter_map, Function.comp_def, cursorAt_cons_succ, h, Nat.add_assoc]

/-- The walk that reads every character always completes, with the words of the closed form (`43_formatter_text.md`
R145, R153). -/
theorem textWalk_ordinary (text : List Byte) (i : Nat) (b : DigitBuffer) :
    textWalk .ordinary text i b = some (DigitBuffer.ofFn fun k => textWordFrom i text k.val (b.get k)) := by
  induction text generalizing i b with
  | nil => rfl
  | cons c rest ih =>
    by_cases hi : i < 4
    · simp only [textWalk_cons (fun _ => rfl) hi, ih, textWordFrom_cons hi, DigitBuffer.get_orWords]
    · have full : 4 ≤ i := Nat.not_lt.mp hi
      simp only [textWalk_full _ _ full, textWordFrom_full full]
      rfl

/-- A word, word 0 apart, at or past the last cursor keeps its value (`43_formatter_text.md` R149). -/
theorem textWordFrom_unreached {i k : Nat} {text : List Byte} (notFirst : k ≠ 0)
    (short : i + cursorAt text text.length ≤ k) (w : Word) : textWordFrom i text k w = w := by
  induction text generalizing i w with
  | nil => rfl
  | cons c rest ih =>
    rw [List.length_cons, cursorAt_cons_succ, ← Nat.add_assoc] at short
    by_cases hi : i < 4
    · rw [textWordFrom_cons hi, ih short, charWord_eq_zero notFirst (by omega)]
      exact BitVec.or_zero
    · exact textWordFrom_full (Nat.not_lt.mp hi) _ _ _

/-! ### DISPLAY_TEXT -/

theorem exec_displayText (text : List Byte) (s : State) :
    exec (.displayText text) s = displayTextWith .refuse text s := rfl

/-- The text display sees of its text and its policy only what the walk from cursor 0 makes of them. -/
theorem displayTextWith_congr {p p' : TextNulPolicy} {text text' : List Byte}
    (walk : textWalk p text 0 (DigitBuffer.ofFn dsel) = textWalk p' text' 0 (DigitBuffer.ofFn dsel)) (s : State) :
    displayTextWith p text s = displayTextWith p' text' s := by
  rw [displayTextWith, walk, displayTextWith]

theorem exec_displayText_congr {text text' : List Byte}
    (walk : textWalk .refuse text 0 (DigitBuffer.ofFn dsel) = textWalk .refuse text' 0 (DigitBuffer.ofFn dsel))
    (s : State) : exec (.displayText text) s = exec (.displayText text') s := displayTextWith_congr walk s

/-- The buffer of the closed form (`43_formatter_text.md` R145). -/
def textBuffer (text : List Byte) : DigitBuffer := DigitBuffer.ofFn (textWord text)

theorem textWalk_ordinary_textBuffer (text : List Byte) :
    textWalk .ordinary text 0 (DigitBuffer.ofFn dsel) = some (textBuffer text) := by
  simp only [textWalk_ordinary, DigitBuffer.get_ofFn, textBuffer, ← textWord_eq]

theorem displayTextWith_ordinary (text : List Byte) (s : State) :
    displayTextWith .ordinary text s = .next ((s.setBuf (textBuffer text)).setResult none) := by
  rw [displayTextWith, textWalk_ordinary_textBuffer]
  rfl

/-- Where no 0x00 is reached DISPLAY_TEXT completes with the buffer of the closed form (`43_formatter_text.md` R145). -/
theorem exec_displayText_textBuffer {text : List Byte} (h : reachesNul text = false) (s : State) :
    exec (.displayText text) s = .next ((s.setBuf (textBuffer text)).setResult none) := by
  obtain ⟨b, walk, -⟩ := exec_displayText_of_not_reachesNul h s
  rw [exec_displayText, ← displayTextWith_ordinary]
  exact displayTextWith_congr (walk.trans (textWalk_ordinary_of_refuse walk).symm) s

/-- Settles O24: a walk that is not refused leaves the buffer of the closed form. -/
theorem displayTextRendersText : Obligations.DisplayTextRendersText :=
  ⟨fun _ s unreached => ⟨_, exec_displayText_textBuffer unreached s, onlyBufferWritten_setBuf s _,
      DigitBuffer.get_ofFn _⟩,
    fun s => ⟨_, exec_displayText_of_walk (b := ⟨0x8040, 0x56C8, 0x0098, 0x20E8⟩) (by decide) s, rfl⟩⟩

/-- Settles O25: the walk is refused where it reaches a 0x00, and the operation with it. -/
theorem reachedNulIsRefused : Obligations.ReachedNulIsRefused := fun _ s reached =>
  exec_displayText_of_reachesNul reached s

/-- Settles O26: each clause is what the walk does under the policy it names. -/
theorem otherNulPolicies : Obligations.OtherNulPolicies :=
  ⟨fun text s => displayTextWith_congr (textWalk_terminate text 0 _) s,
    fun text s => ⟨_, displayTextWith_ordinary text s, onlyBufferWritten_setBuf s _, DigitBuffer.get_ofFn _⟩,
    fun p _ s absent => displayTextWith_congr (textWalk_of_nul_not_mem absent p 0 _) s⟩

/-- Before the first character and after it a point ORs the same into the buffer, and ORs commute. -/
theorem textWalk_point_swap {c : Byte} (notPoint : c ≠ charPoint) (rest : List Byte) (b : DigitBuffer) :
    textWalk .refuse (charPoint :: c :: rest) 0 b = textWalk .refuse (c :: charPoint :: rest) 0 b := by
  rw [textWalk_refuse_point (by decide)]
  by_cases nul : c = 0x00
  · subst nul
    rw [textWalk_nul _ _ _ (by decide), textWalk_nul _ _ _ (by decide)]
  · have glyph : isPoint c = false := beq_eq_false_iff_ne.mpr notPoint
    rw [textWalk_cons (absurd · nul) (by decide), textWalk_cons (absurd · nul) (by decide), glyph,
      textWalk_refuse_point (by decide), DigitBuffer.orWords_comm, charWord_point_zero]
    rfl

/-- Settles O28: a point before the first character is walked as one after it. -/
theorem leadingPointJoinsTheFirstDigit : Obligations.LeadingPointJoinsTheFirstDigit :=
  ⟨fun _ rest s notPoint => exec_displayText_congr (textWalk_point_swap notPoint rest _) s,
    fun s => ⟨_, _, _, exec_displayText_of_walk (b := ⟨0xE6C0, 0x1000, 0x0010, 0x0020⟩) (by decide) s, rfl,
      exec_displayText_of_walk (b := ⟨0xE6C0, 0x1000, 0x0010, 0x0020⟩) (by decide) s, rfl,
      exec_displayText_of_walk (b := ⟨0x8200, 0x1000, 0x0010, 0x0020⟩) (by decide) s, rfl⟩⟩

/-- A point after a point ORs the same into the buffer once more (`43_formatter_text.md` R154). -/
theorem textWalk_point_point (after : List Byte) (i : Nat) :
    textWalk .refuse (charPoint :: charPoint :: after) i = textWalk .refuse (charPoint :: after) i := by
  funext b
  by_cases hi : i < 4
  · rw [textWalk_refuse_point hi, textWalk_refuse_point hi, textWalk_refuse_point hi, DigitBuffer.orWords_self]
  · rw [textWalk_full _ _ (Nat.not_lt.mp hi), textWalk_full _ _ (Nat.not_lt.mp hi)]

/-- Settles O29: what stands before the points only fixes the cursor and the buffer they are met with. -/
theorem repeatedPointsAddNothing : Obligations.RepeatedPointsAddNothing := by
  intro before after s
  have walk (b : DigitBuffer) : textWalk .refuse (before ++ charPoint :: charPoint :: after) 0 b =
      textWalk .refuse (before ++ charPoint :: after) 0 b := by
    rw [textWalk_append (by decide), textWalk_append (by decide), textWalk_point_point]
  exact exec_displayText_congr (walk _) s

/-- Settles O30: in the closed form nothing is put into such a word. -/
theorem shortTextLeavesDigitsBlank : Obligations.ShortTextLeavesDigitsBlank := by
  refine ⟨fun text s unreached => ⟨_, exec_displayText_textBuffer unreached s, fun k notFirst short => ?_⟩,
    fun s => ⟨_, exec_displayText_of_walk rfl s, rfl⟩⟩
  have first : k.val ≠ 0 := fun zero => notFirst (Fin.ext zero)
  rw [State.setResult_buf, State.setBuf_buf, textBuffer, DigitBuffer.get_ofFn, textWord_eq]
  exact textWordFrom_unreached first (by rwa [Nat.zero_add]) _

/-! ### The decimal point of digit 4 -/

/-- The decimal point is the entry of '.' alone (`40_segment_encoder.md` R91). -/
theorem lut_and_point_of_ne {c : Nat} (h : c ≠ 0x2E) : lut c &&& 0x0200 = 0 := by
  obtain zero | row := lut_zero_or_row c
  · rw [zero]
    rfl
  · by_contra set
    exact h ((by decide : ∀ r ∈ lutRows, r.2 &&& 0x0200 ≠ 0 → r.1 = 0x2E) _ row set)

theorem withColon_and_point (e : Bool) (w : Word) : withColon e w &&& 0x0200 = w &&& 0x0200 := by
  apply BitVec.eq_of_getLsbD_eq
  intro j h
  rw [BitVec.getLsbD_and, BitVec.getLsbD_and, getLsbD_withColon e w h]
  split
  · subst j
    rw [show (0x0200 : Word).getLsbD 2 = false from rfl, Bool.and_false, Bool.and_false]
  · rfl

/-- The word before the cursor is never word 3, so the walk puts no point there (`43_formatter_text.md` R147). -/
theorem textWalk_point_three_off {p : TextNulPolicy} {text : List Byte} {i : Nat} {b b' : DigitBuffer}
    (walk : textWalk p text i b = some b') (off : b.get 3 &&& 0x0200 = 0) : b'.get 3 &&& 0x0200 = 0 := by
  refine textWalk_preserves (P := fun b => b.get 3 &&& 0x0200 = 0) p (fun b k off => ?_) (fun b k c notPoint off => ?_)
    walk off
  · have elsewhere : (3 : Fin 4) ≠ previousDigit k := by
      rw [Ne, Fin.ext_iff, previousDigit]
      simp only [Fin.coe_ofNat_eq_mod]
      omega
    rwa [DigitBuffer.get_orInto, if_neg elsewhere]
  · have code : c.toNat ≠ 0x2E := fun same => notPoint (BitVec.eq_of_toNat_eq same)
    rwa [DigitBuffer.orInto_get_and (lut_and_point_of_ne code)]

/-- Only DISPLAY_RAW can light the point of digit 4 (`43_formatter_text.md` R147). -/
theorem exec_point_three_off {i : Instr} {s t : State} (h : exec i s = .next t)
    (notRaw : ∀ m1 m2 m3 m4 c, i ≠ .displayRaw m1 m2 m3 m4 c) (off : s.buf.get 3 &&& 0x0200 = 0) :
    t.buf.get 3 &&& 0x0200 = 0 := by
  have cleared : zeroBuffer.get 3 &&& 0x0200 = 0 := by decide
  have ofPair {hi lo : Byte} (pair : i = .displayDec hi lo ∨ i = .displayHex hi lo) : t.buf.get 3 &&& 0x0200 = 0 := by
    obtain ⟨g, numeral, word⟩ := exec_displayPair_get pair h 3
    rw [word, composeWord_plain_and (Word_and_eq_zero_of_subset numeral.and_point_colon (by decide))]
    rfl
  cases i with
  | encode c => rwa [exec_buf h (.inr ⟨c, rfl⟩)]
  | refresh => rwa [exec_buf h (.inl rfl)]
  | clear =>
    cases h
    exact cleared
  | setup =>
    cases (exec_setup_eq s).symm.trans h
    exact cleared
  | displayRaw m1 m2 m3 m4 c => exact absurd rfl (notRaw m1 m2 m3 m4 c)
  | displayDec hi lo => exact ofPair (.inl rfl)
  | displayHex hi lo => exact ofPair (.inr rfl)
  | colon e =>
    cases (exec_colon e s).symm.trans h
    rwa [State.setResult_buf, State.setBuf_buf, DigitBuffer.get_ofFn, withColon_and_point]
  | displayText text => exact textWalk_point_three_off (exec_displayText_walk h) rfl

/-- With the cursor at 4 the walk has stopped, so what follows is not looked at (`43_formatter_text.md` R150). -/
theorem textWalk_append_of_full {text : List Byte} {i : Nat} (full : 4 ≤ i + cursorAt text text.length)
    (extra : List Byte) (b : DigitBuffer) : textWalk .refuse (text ++ extra) i b = textWalk .refuse text i b := by
  have stopped : textWalk .refuse extra (i + cursorAt text text.length) = some :=
    funext fun b => textWalk_full _ b full extra
  rw [textWalk_append (by decide), stopped, Option.bind_fun_some]

/-- Settles O27: the walk has stopped before the second part, and no other operation puts a point into word 3. -/
theorem textPastTheFourthDigitIsDropped : Obligations.TextPastTheFourthDigitIsDropped := by
  refine ⟨fun text extra s four => exec_displayText_congr (textWalk_append_of_full ?_ extra _) s,
    fun i s t h notRaw => mt (exec_point_three_off h notRaw), fun s => ?_⟩
  · rwa [Nat.zero_add]
  · exact ⟨_, _, _, _, exec_displayText_of_walk (b := ⟨0x8088, 0x5C48, 0x44D8, 0x20E8⟩) (by decide) s, rfl,
      exec_displayText_of_walk (b := ⟨0x8088, 0x5C48, 0x44D8, 0x20E8⟩) (by decide) s, rfl,
      exec_displayText_of_walk (b := ⟨0xEEC8, 0x7EC8, 0x6ED8, 0x6CE8⟩) (by decide) s,
      exec_displayText_of_walk (b := ⟨0xEEC8, 0x7EC8, 0x6ED8, 0x6CE8⟩) (by decide) s, rfl⟩

end Sys2Proof.Machine
end

section
/-! REFRESH on the wire (`44_transceiver.md`): the events of a burst, the levels they present on DATA, and what the
informative receiver of R169 makes of them. -/

namespace Sys2Proof.Machine

/-! ### The frames of a burst -/

/-- A frame carries both bytes of its word (`44_transceiver.md` R162). -/
theorem frame_injective {v w : Word} (h : frame v = frame w) : v = w := by
  simp only [frame, ← Word_high_eq, ← Word_low_eq, List.cons.injEq, Event.shiftOut8.injEq, true_and, and_true] at h
  exact Word.eq_iff_bytes.mpr h

/-- The frame of word `k` comes next after the first `k` frames of a burst (`44_transceiver.md` R160). -/
theorem burst_take_succ (b : DigitBuffer) (k : Fin 4) :
    (burst b).take (4 * (k.val + 1)) = (burst b).take (4 * k.val) ++ frame (b.get k) := by
  fin_cases k <;> rfl

/-- A burst carries its buffer: each of its frames is at a fixed place. -/
theorem burst_injective {a b : DigitBuffer} (h : burst a = burst b) : a = b := by
  refine DigitBuffer.ext_get fun k => frame_injective ?_
  have upToFrame := congrArg (List.take (4 * (k.val + 1))) h
  rw [burst_take_succ, burst_take_succ] at upToFrame
  exact List.append_inj_right' upToFrame rfl

/-- Settles O35: the events added are the bursts of the two buffers. -/
theorem burstDeterminesTheBuffer : Obligations.BurstDeterminesTheBuffer := by
  intro s s' t t' es h h' added added'
  have events : burst s.buf = es := List.append_cancel_left ((exec_trace h).symm.trans added)
  have events' : burst s'.buf = es := List.append_cancel_left ((exec_trace h').symm.trans added')
  exact burst_injective (events.trans events'.symm)

theorem bufferWords_injective {a b : DigitBuffer} (h : bufferWords a = bufferWords b) : a = b := by
  cases a
  cases b
  simpa [bufferWords] using h

/-- Settles O33: the burst, and the lines where its last TRANSMIT leaves them. -/
theorem refreshSendsTheBuffer : Obligations.RefreshSendsTheBuffer := by
  refine ⟨fun s => ⟨_, exec_refresh s, ?_, fun configured => ?_, fun unconfigured => ?_, ?_⟩, fun s words => ?_⟩
  · simp [refresh_burst, burst, DigitBuffer.get]
  · simp [refresh_levels, configured, Lines.get, DigitBuffer.get]
  · simp [refresh_levels, unconfigured]
  · simp
  · have buffer : s.buf = ⟨0x8088, 0x5C48, 0x44D8, 0x20E8⟩ := bufferWords_injective words
    refine ⟨_, exec_refresh s, ?_⟩
    rw [State.setResult_trace, refresh_burst, buffer]
    rfl

/-! ### The bits on the wire -/

/-- The bits of a word in the order they leave, most significant first (`44_transceiver.md` R168). -/
def wordBits (w : Word) : List Bool := (List.range 16).map fun n => w.getLsbD (15 - n)

theorem lineTrace_append (es fs : List Event) : lineTrace (es ++ fs) = lineTrace es ++ lineTrace fs :=
  List.flatMap_append

theorem dataLevels_append (us vs : List LineWrite) : dataLevels (us ++ vs) = dataLevels us ++ dataLevels vs :=
  List.filterMap_append

/-- A frame presents the 16 bits of its word on DATA: the high byte's eight, then the low byte's. -/
theorem dataLevels_frame (w : Word) : dataLevels (lineTrace (frame w)) = wordBits w := by
  have bytes : dataLevels (lineTrace (frame w)) = shiftOrder.map w.high.getLsbD ++ shiftOrder.map w.low.getLsbD := by
    rw [frame, ← Word_high_eq, ← Word_low_eq]
    rfl
  rw [bytes]
  simp [shiftOrder, wordBits, Word.high, Word.low, List.range_succ]

/-- A frame is 50 line writes: two of LATCH, and three for each of its 16 bits (`92_eei_decisions.md` D7). -/
theorem length_lineTrace_frame (w : Word) : (lineTrace (frame w)).length = 50 := rfl

/-- A burst presents the bits of its four words in turn (`44_transceiver.md` R168). -/
theorem dataLevels_burst (b : DigitBuffer) :
    dataLevels (lineTrace (burst b)) = (bufferWords b).flatMap wordBits := by
  simp only [burst, bufferWords, lineTrace_append, dataLevels_append, dataLevels_frame, List.flatMap_cons,
    List.flatMap_nil, List.append_assoc, List.append_nil]

/-- Settles O36: bit `n` of a burst is bit `n % 16` of the word `n / 16`. -/
theorem wireBitOrder : Obligations.WireBitOrder := by
  refine fun s => ⟨_, burst s.buf, exec_refresh s, refresh_burst s, ?_, ?_⟩
  · rw [dataLevels_burst]
    rfl
  · simp only [burst, lineTrace_append, List.length_append, length_lineTrace_frame]

/-! ### The informative receiver -/

theorem Receiver.run_append {bits : Nat} (r : Receiver bits) (es fs : List Event) :
    r.run (es ++ fs) = (r.run es).run fs := by
  rw [run, lineTrace_append, List.foldl_append]
  rfl

theorem Receiver.run_cons {bits : Nat} (r : Receiver bits) (e : Event) (es : List Event) :
    r.run (e :: es) = (r.run [e]).run es :=
  r.run_append [e] es

section
variable {r : Receiver 16} (idle : r.clock ≠ some true)
include idle

/-- One bit of a shift-out enters the register at its low end, on the rising edge of its clock pulse
(`44_transceiver.md` R169). -/
theorem Receiver.foldl_onWrite_bitWrites (bit : Bool) :
    (bitWrites Config.clockPulse bit).foldl Receiver.onWrite r =
      { sr := r.sr.shiftConcat bit, out := r.out, data := bit, clock := some false } := by
  simp [bitWrites, Config.clockPulse, Receiver.onWrite, idle]

/-- A byte shifted out becomes the low byte of the register, and the low byte moves up. -/
theorem Receiver.run_shiftOut8 (b : Byte) :
    r.run [.shiftOut8 b] =
      { sr := Word.ofBytes (Word.low r.sr) b, out := r.out, data := b.getLsbD 0, clock := some false } := by
  have bits : (shiftOrder.map b.getLsbD).foldl BitVec.shiftConcat r.sr = Word.ofBytes (Word.low r.sr) b := by
    apply BitVec.eq_of_getLsbD_eq
    intro i hi
    simp only [shiftOrder, List.map, List.foldl, Word.ofBytes, Word.low, BitVec.getLsbD_shiftConcat,
      BitVec.getLsbD_append, BitVec.getLsbD_extractLsb']
    interval_cases i <;> simp
  rw [← bits]
  simp [Receiver.run, lineTrace, Event.lineWrites, Event.lineWritesWith, shiftOrder,
    Receiver.foldl_onWrite_bitWrites, idle]

/-- The clock pulse ends low, so no event leaves the CLOCK input high (`92_eei_decisions.md` D7). -/
theorem Receiver.run_clock_ne_high (es : List Event) : (r.run es).clock ≠ some true := by
  induction es generalizing r with
  | nil => exact idle
  | cons e es ih =>
    rw [Receiver.run_cons]
    apply ih
    cases e with
    | shiftOut8 b => simp [Receiver.run_shiftOut8 idle]
    | _ => exact idle

/-- After a frame both registers hold its word, whatever they held before (`70_reset_and_hazards.md` R217). -/
theorem Receiver.run_frame (w : Word) :
    r.run (frame w) = { sr := w, out := w, data := w.getLsbD 0, clock := some false } := by
  have latchLow : r.run [.latchLow] = r := rfl
  have latchHigh (r : Receiver 16) : r.run [.latchHigh] = { r with out := r.sr } := rfl
  have pulsed : some false ≠ some true := by decide
  rw [frame, ← Word_high_eq, ← Word_low_eq, Receiver.run_cons, latchLow, Receiver.run_cons,
    Receiver.run_shiftOut8 idle, Receiver.run_cons, Receiver.run_shiftOut8 pulsed, latchHigh, Word.low_ofBytes,
    Word_high_append_low]
  simp [Word.low]

/-- After the first `k + 1` frames of a burst both registers hold word `k` (`44_transceiver.md` R169). -/
theorem Receiver.run_burst_take (b : DigitBuffer) (k : Fin 4) :
    (r.run ((burst b).take (4 * (k.val + 1)))).sr = b.get k ∧
      (r.run ((burst b).take (4 * (k.val + 1)))).out = b.get k := by
  rw [burst_take_succ, Receiver.run_append, Receiver.run_frame (Receiver.run_clock_ne_high idle _)]
  exact ⟨rfl, rfl⟩

end

/-- Settles O37: word 3 is left by the case of all four frames. -/
theorem receiverLatchesEachWord : Obligations.ReceiverLatchesEachWord := by
  intro s r _ idle
  have latched := Receiver.run_burst_take idle s.buf
  obtain ⟨sr, out⟩ := latched 3
  exact ⟨_, burst s.buf, exec_refresh s, refresh_burst s, fun k => (latched k).2, sr, out⟩

end Sys2Proof.Machine
end

section
/-! The closed list of refusals (`60_exceptions.md` R200): what is refused by a step, by the construction of a driver and
by that of a system of drivers, each with its cause. -/

namespace Sys2Proof.Machine

/-! ### Steps -/

/-- What the decoder refuses as reserved begins with a header of the list of `30_encoding.md` R76. -/
theorem isReserved_of_decode {bytes : List Byte} (h : decode bytes = .reservedHeader) :
    ∃ op modifier payload, bytes = op :: modifier :: payload ∧ isReserved op modifier = true := by
  match bytes with
  | [] | [_] => cases h
  | op :: modifier :: payload =>
    obtain ⟨listed, -⟩ := reservedHeadersAreRefused
    exact ⟨op, modifier, payload, rfl, (listed op modifier payload).mp h⟩

/-- A command is decoded only behind the two bytes of a header (`30_encoding.md` R71). -/
theorem exists_header_of_decode_instr {bytes rest : List Byte} {i : Instr} (h : decode bytes = .instr i rest) :
    ∃ op modifier payload, bytes = op :: modifier :: payload := by
  obtain ⟨op, modifier, payload, -, sent, -⟩ := selectRow_of_decode (bytes := bytes) (by simp [h]) (by simp [h])
  exact ⟨op, modifier, payload, sent⟩

/-! ### Constructions -/

/-- A construction goes on unless two of the three identifiers are equal (`10_state.md` R25). -/
theorem construct_next_or_equal (p : PinConfig) :
    (∃ t, construct p = .next t) ∨ p.data = p.latch ∨ p.data = p.clock ∨ p.latch = p.clock := by
  by_cases distinct : pinsDistinct p = true
  · exact .inl ⟨_, construct_eq_next_iff.mpr ⟨distinct, rfl⟩⟩
  · rw [pinsDistinct_iff] at distinct
    tauto

/-- One driver with equal identifiers refuses the whole system (`10_state.md` R25). -/
theorem constructSystem_of_not_distinct {ps : List PinConfig} (h : ∃ p ∈ ps, pinsDistinct p = false) :
    constructSystem ps = .refused .pinsNotDistinct := by
  have notAll : ¬ ps.all pinsDistinct = true := by simpa using h
  exact if_pos notAll

/-- Settles O54: a step is refused as its decoder or its operation is, a construction by the one test it makes, and a
system by the first of its two tests that fails. -/
theorem refusalsAreTheClosedList : Obligations.RefusalsAreTheClosedList := by
  refine ⟨fun s => ?_, fun p => ?_, fun ps => ?_⟩
  · cases found : decode s.input with
    | noHeader => exact .inl ⟨s, step_of_decode_noHeader found⟩
    | reservedHeader =>
      obtain ⟨op, modifier, payload, sent, listed⟩ := isReserved_of_decode found
      exact .inr ⟨op, modifier, payload, sent, .inl ⟨step_of_decode_reservedHeader found, listed⟩⟩
    | shortPayload =>
      have refused := step_of_decode_shortPayload found
      obtain ⟨-, -, -, -, cause, -⟩ := shortCommandsAreRefused
      obtain ⟨op, modifier, payload, row, sent, selected, short⟩ := cause s refused
      exact .inr ⟨op, modifier, payload, sent, .inr <| .inl ⟨refused, row, selected, short⟩⟩
    | instr i rest =>
      rw [step_of_decode_instr found]
      obtain completes | ⟨refused, text, rfl, reached⟩ := onlyAReachedNulIsRefused i (s.setInput rest)
      · exact .inl completes
      · obtain ⟨op, modifier, payload, sent⟩ := exists_header_of_decode_instr found
        exact .inr ⟨op, modifier, payload, sent, .inr <| .inr ⟨refused, text, rest, rfl, reached⟩⟩
  · exact (construct_next_or_equal p).imp_right fun equal => ⟨equalPinsAreRefused p equal, equal⟩
  · by_cases distinct : ∀ p ∈ ps, pinsDistinct p = true
    · rw [constructSystem_of_distinct distinct]
      by_cases apart : (ps.flatMap pinIds).Nodup
      · exact .inl ⟨_, if_pos apart⟩
      · exact .inr <| .inr ⟨if_neg apart, distinct, apart⟩
    · have equal : ∃ p ∈ ps, pinsDistinct p = false := by simpa using distinct
      exact .inr <| .inl ⟨constructSystem_of_not_distinct equal, equal⟩

end Sys2Proof.Machine
end

section
/-! The state right after construction (`70_reset_and_hazards.md` R210): its buffer and its lines. -/

namespace Sys2Proof.Machine

/-- A driver starts with the all-zero buffer (`10_state.md` R24). -/
@[simp] theorem State.fresh_buf (p : PinConfig) : (State.fresh p).buf = zeroBuffer := rfl

/-- No line of a fresh driver has been driven (`70_reset_and_hazards.md` R210). -/
@[simp] theorem State.fresh_lines_get (p : PinConfig) (l : Line) : (State.fresh p).lines.get l = none := by
  cases l <;> rfl

/-- Settles O1: three distinct identifiers pass the one test of construction, which answers the fresh state. -/
theorem constructionStartsInvisible : Obligations.ConstructionStartsInvisible := by
  intro p dataLatch dataClock latchClock
  have distinct : pinsDistinct p = true := (pinsDistinct_iff p).mpr ⟨dataLatch, dataClock, latchClock⟩
  have built : construct p = .next (State.fresh p) := construct_eq_next_iff.mpr ⟨distinct, rfl⟩
  have blank (k : Fin 4) : (State.fresh p).buf.get k = 0x0000 := by
    rw [State.fresh_buf, DigitBuffer.get_zeroBuffer]
  exact ⟨_, built, blank, rfl, rfl, State.fresh_lines_get p, rfl⟩

end Sys2Proof.Machine
end

section
/-! The state after reset (`70_reset_and_hazards.md` R210): the fresh state on the model's own three identifiers. -/

namespace Sys2Proof.Machine

/-- The model's own identifiers pass the test of construction (`10_state.md` R25). -/
theorem pinsDistinct_config : pinsDistinct Config.pins = true := by decide

/-- Settles O3: reset is the fresh state on the model's own identifiers, which are distinct. -/
theorem resetMeetsTheMachineInvariant : Obligations.ResetMeetsTheMachineInvariant :=
  ⟨construct_eq_next_iff.mpr ⟨pinsDistinct_config, rfl⟩, machineInv_fresh pinsDistinct_config⟩

end Sys2Proof.Machine
end
